-- ==== Sys2Proof/Word.lean ====
section
/-! DEFINITION. The two widths of Spec2GB CORE (00_scope.md R6, 10_state.md R20): a byte and a 16-bit word. -/

namespace Sys2Proof

/-- A byte of the store or an 8-bit register (R6, R21): arithmetic wraps modulo 256. -/
abbrev Byte := BitVec 8

/-- PC, SP or an address (R6, R22, R60): arithmetic wraps modulo 65536. -/
abbrev Word := BitVec 16

end Sys2Proof
end

