-- ==== Sys2Proof/Config.lean ====
section
/-! DEFINITION. The types of the implementation parameters of 00_scope.md R5. The parameters that the running block
consults (IO_ADDR, CYCLE_COST, JR_BASE) are gathered in `Params`; RESET has its own record. Their default values stand in
Sys2Proof/Machine/Defaults.lean, and no value is fixed here: a statement holds for every value of them unless it names one. -/

namespace Sys2Proof

/-- IO_ADDR (10_state.md R31, OPEN, D8): the addresses of the eleven peripheral registers. -/
structure IoAddr where
  div : Word
  tima : Word
  tma : Word
  tac : Word
  lcdc : Word
  stat : Word
  scy : Word
  scx : Word
  ly : Word
  wy : Word
  wx : Word
  deriving DecidableEq, Repr

/-- The eleven addresses in the order of the table of R31. -/
def IoAddr.all (io : IoAddr) : List Word :=
  [io.div, io.tima, io.tma, io.tac, io.lcdc, io.stat, io.scy, io.scx, io.ly, io.wy, io.wx]

/-- R31: "`IO_ADDR` must give eleven distinct addresses inside 0xFF00–0xFF7F". -/
abbrev IoAddr.WF (io : IoAddr) : Prop :=
  (io.all.all fun a => decide (0xFF00 ≤ a.toNat) && decide (a.toNat ≤ 0xFF7F)) = true ∧ io.all.Nodup

/-- CYCLE_COST (70_reset_and_hazards.md R275, OPEN, D4): one cost for each of the sixteen mnemonics. -/
structure CycleCost where
  add : Nat
  sub : Nat
  and : Nat
  or : Nat
  xor : Nat
  incA : Nat
  decA : Nat
  ldRR : Nat
  ldAn : Nat
  ldhStore : Nat
  ldhLoad : Nat
  jp : Nat
  jr : Nat
  call : Nat
  ret : Nat
  halt : Nat
  deriving DecidableEq, Repr

/-- R275: "a total function from the sixteen mnemonics to positive integers". -/
abbrev CycleCost.WF (c : CycleCost) : Prop :=
  ∀ n ∈ [c.add, c.sub, c.and, c.or, c.xor, c.incA, c.decA, c.ldRR, c.ldAn, c.ldhStore, c.ldhLoad, c.jp, c.jr, c.call,
    c.ret, c.halt], 0 < n

/-- JR_BASE (42_control.md R174, OPEN, D5), which is 0 or 2: what JR adds to its own address beside the displacement. -/
inductive JrBase where
  /-- `JR_BASE = 0`, the source's literal formula. -/
  | literal
  /-- `JR_BASE = 2`: the displacement counts from the address after the instruction. -/
  | afterInstruction
  deriving DecidableEq, Repr

/-- The parameters fixed for a run that the step operations take (R5, 10_state.md R39). -/
structure Params where
  io : IoAddr
  cost : CycleCost
  jrBase : JrBase
  deriving DecidableEq, Repr

/-- The constraints R31 and R275 put on the parameters. -/
abbrev Params.WF (p : Params) : Prop := p.io.WF ∧ p.cost.WF

/-- RESET (10_state.md R40, OPEN, D1): the ten register values after reset. -/
structure ResetRegs where
  a : Byte
  f : Byte
  b : Byte
  c : Byte
  d : Byte
  e : Byte
  h : Byte
  l : Byte
  sp : Word
  pc : Word
  deriving DecidableEq, Repr

/-- R40: "a record of ten values with `RESET.F & 0x0F = 0`". -/
abbrev ResetRegs.WF (r : ResetRegs) : Prop := r.f &&& 0x0F#8 = 0#8

end Sys2Proof
end

