-- ==== Sys2Proof/Syntax.lean ====
section
/-! DEFINITION. The instruction set as syntax (30_encoding.md R100 to R112): the eight 8-bit registers, the sixteen
mnemonics, the instruction record of R101, and `Instr`, one constructor for each of the 64 rows of spec/opcode_table.json. -/

namespace Sys2Proof

/-- The eight 8-bit registers (10_state.md R20). F is no operand of LD r,r' (R103, D13). -/
inductive Reg8 where
  | a
  | b
  | c
  | d
  | e
  | h
  | l
  | f
  deriving DecidableEq, Repr

/-- The sixteen mnemonics of R107. -/
inductive Mnemonic where
  | add
  | sub
  | and
  | or
  | xor
  | incA
  | decA
  | ldRR
  | ldAn
  | ldhStore
  | ldhLoad
  | jp
  | jr
  | call
  | ret
  | halt
  deriving DecidableEq, Repr

/-- The operand of an instruction record (R101): nothing, one of four typed fields, or the two register selectors. -/
inductive Operand where
  | none
  | imm8 (n : Byte)
  | rel8 (e : Byte)
  | ioOffset8 (n : Byte)
  | addr16 (nn : Word)
  | regs (dst src : Reg8)
  deriving DecidableEq, Repr

/-- The mnemonic field of a record the host built itself (43_system.md R195): one of the sixteen, or a name outside them. -/
inductive RecordMnemonic where
  | known (m : Mnemonic)
  | other (name : String)
  deriving DecidableEq, Repr

/-- The instruction record of R101; `length` is a field of its own, which the test port uses unchecked (R195). -/
structure Record where
  mnemonic : RecordMnemonic
  length : Nat
  operand : Operand
  deriving DecidableEq, Repr

/-- The instructions: one constructor for each row of spec/opcode_table.json (R107, R108), in the table's order. -/
inductive Instr where
  /-- 0x18 JR e (R174). -/
  | jr (e : Byte)
  /-- 0x3C INC A (R137). -/
  | incA
  /-- 0x3D DEC A (R138). -/
  | decA
  /-- 0x3E LD A,n (R151). -/
  | ldAn (n : Byte)
  /-- 0x40 LD B,B (R150). -/
  | ldBB
  /-- 0x41 LD B,C (R150). -/
  | ldBC
  /-- 0x42 LD B,D (R150). -/
  | ldBD
  /-- 0x43 LD B,E (R150). -/
  | ldBE
  /-- 0x44 LD B,H (R150). -/
  | ldBH
  /-- 0x45 LD B,L (R150). -/
  | ldBL
  /-- 0x47 LD B,A (R150). -/
  | ldBA
  /-- 0x48 LD C,B (R150). -/
  | ldCB
  /-- 0x49 LD C,C (R150). -/
  | ldCC
  /-- 0x4A LD C,D (R150). -/
  | ldCD
  /-- 0x4B LD C,E (R150). -/
  | ldCE
  /-- 0x4C LD C,H (R150). -/
  | ldCH
  /-- 0x4D LD C,L (R150). -/
  | ldCL
  /-- 0x4F LD C,A (R150). -/
  | ldCA
  /-- 0x50 LD D,B (R150). -/
  | ldDB
  /-- 0x51 LD D,C (R150). -/
  | ldDC
  /-- 0x52 LD D,D (R150). -/
  | ldDD
  /-- 0x53 LD D,E (R150). -/
  | ldDE
  /-- 0x54 LD D,H (R150). -/
  | ldDH
  /-- 0x55 LD D,L (R150). -/
  | ldDL
  /-- 0x57 LD D,A (R150). -/
  | ldDA
  /-- 0x58 LD E,B (R150). -/
  | ldEB
  /-- 0x59 LD E,C (R150). -/
  | ldEC
  /-- 0x5A LD E,D (R150). -/
  | ldED
  /-- 0x5B LD E,E (R150). -/
  | ldEE
  /-- 0x5C LD E,H (R150). -/
  | ldEH
  /-- 0x5D LD E,L (R150). -/
  | ldEL
  /-- 0x5F LD E,A (R150). -/
  | ldEA
  /-- 0x60 LD H,B (R150). -/
  | ldHB
  /-- 0x61 LD H,C (R150). -/
  | ldHC
  /-- 0x62 LD H,D (R150). -/
  | ldHD
  /-- 0x63 LD H,E (R150). -/
  | ldHE
  /-- 0x64 LD H,H (R150). -/
  | ldHH
  /-- 0x65 LD H,L (R150). -/
  | ldHL
  /-- 0x67 LD H,A (R150). -/
  | ldHA
  /-- 0x68 LD L,B (R150). -/
  | ldLB
  /-- 0x69 LD L,C (R150). -/
  | ldLC
  /-- 0x6A LD L,D (R150). -/
  | ldLD
  /-- 0x6B LD L,E (R150). -/
  | ldLE
  /-- 0x6C LD L,H (R150). -/
  | ldLH
  /-- 0x6D LD L,L (R150). -/
  | ldLL
  /-- 0x6F LD L,A (R150). -/
  | ldLA
  /-- 0x76 HALT (R190). -/
  | halt
  /-- 0x78 LD A,B (R150). -/
  | ldAB
  /-- 0x79 LD A,C (R150). -/
  | ldAC
  /-- 0x7A LD A,D (R150). -/
  | ldAD
  /-- 0x7B LD A,E (R150). -/
  | ldAE
  /-- 0x7C LD A,H (R150). -/
  | ldAH
  /-- 0x7D LD A,L (R150). -/
  | ldAL
  /-- 0x7F LD A,A (R150). -/
  | ldAA
  /-- 0xC3 JP nn (R173). -/
  | jp (nn : Word)
  /-- 0xC6 ADD A,n (R132). -/
  | addAn (n : Byte)
  /-- 0xC9 RET (R176). -/
  | ret
  /-- 0xCD CALL nn (R175). -/
  | call (nn : Word)
  /-- 0xD6 SUB A,n (R133). -/
  | subAn (n : Byte)
  /-- 0xE0 LDH (n),A (R152). -/
  | ldhStore (n : Byte)
  /-- 0xE6 AND A,n (R134). -/
  | andAn (n : Byte)
  /-- 0xEE XOR A,n (R136). -/
  | xorAn (n : Byte)
  /-- 0xF0 LDH A,(n) (R153). -/
  | ldhLoad (n : Byte)
  /-- 0xF6 OR A,n (R135). -/
  | orAn (n : Byte)
  deriving DecidableEq, Repr

end Sys2Proof
end

