-- ==== Sys2Proof/Machine/Fields.lean ====
section
/-! DEFINITION. The fields of the record decode produces for an instruction (30_encoding.md R100, R101, R107): mnemonic,
operand, length. -/

namespace Sys2Proof

/-- The mnemonic of R107 an instruction belongs to; the 49 LD r,r' rows share one. -/
def Instr.mnemonic : Instr → Mnemonic
  | .jr _ => .jr
  | .incA => .incA
  | .decA => .decA
  | .ldAn _ => .ldAn
  | .ldBB => .ldRR
  | .ldBC => .ldRR
  | .ldBD => .ldRR
  | .ldBE => .ldRR
  | .ldBH => .ldRR
  | .ldBL => .ldRR
  | .ldBA => .ldRR
  | .ldCB => .ldRR
  | .ldCC => .ldRR
  | .ldCD => .ldRR
  | .ldCE => .ldRR
  | .ldCH => .ldRR
  | .ldCL => .ldRR
  | .ldCA => .ldRR
  | .ldDB => .ldRR
  | .ldDC => .ldRR
  | .ldDD => .ldRR
  | .ldDE => .ldRR
  | .ldDH => .ldRR
  | .ldDL => .ldRR
  | .ldDA => .ldRR
  | .ldEB => .ldRR
  | .ldEC => .ldRR
  | .ldED => .ldRR
  | .ldEE => .ldRR
  | .ldEH => .ldRR
  | .ldEL => .ldRR
  | .ldEA => .ldRR
  | .ldHB => .ldRR
  | .ldHC => .ldRR
  | .ldHD => .ldRR
  | .ldHE => .ldRR
  | .ldHH => .ldRR
  | .ldHL => .ldRR
  | .ldHA => .ldRR
  | .ldLB => .ldRR
  | .ldLC => .ldRR
  | .ldLD => .ldRR
  | .ldLE => .ldRR
  | .ldLH => .ldRR
  | .ldLL => .ldRR
  | .ldLA => .ldRR
  | .halt => .halt
  | .ldAB => .ldRR
  | .ldAC => .ldRR
  | .ldAD => .ldRR
  | .ldAE => .ldRR
  | .ldAH => .ldRR
  | .ldAL => .ldRR
  | .ldAA => .ldRR
  | .jp _ => .jp
  | .addAn _ => .add
  | .ret => .ret
  | .call _ => .call
  | .subAn _ => .sub
  | .ldhStore _ => .ldhStore
  | .andAn _ => .and
  | .xorAn _ => .xor
  | .ldhLoad _ => .ldhLoad
  | .orAn _ => .or

/-- The operand field of the instruction's record (R101). -/
def Instr.operand : Instr → Operand
  | .jr e => .rel8 e
  | .incA => .none
  | .decA => .none
  | .ldAn n => .imm8 n
  | .ldBB => .regs .b .b
  | .ldBC => .regs .b .c
  | .ldBD => .regs .b .d
  | .ldBE => .regs .b .e
  | .ldBH => .regs .b .h
  | .ldBL => .regs .b .l
  | .ldBA => .regs .b .a
  | .ldCB => .regs .c .b
  | .ldCC => .regs .c .c
  | .ldCD => .regs .c .d
  | .ldCE => .regs .c .e
  | .ldCH => .regs .c .h
  | .ldCL => .regs .c .l
  | .ldCA => .regs .c .a
  | .ldDB => .regs .d .b
  | .ldDC => .regs .d .c
  | .ldDD => .regs .d .d
  | .ldDE => .regs .d .e
  | .ldDH => .regs .d .h
  | .ldDL => .regs .d .l
  | .ldDA => .regs .d .a
  | .ldEB => .regs .e .b
  | .ldEC => .regs .e .c
  | .ldED => .regs .e .d
  | .ldEE => .regs .e .e
  | .ldEH => .regs .e .h
  | .ldEL => .regs .e .l
  | .ldEA => .regs .e .a
  | .ldHB => .regs .h .b
  | .ldHC => .regs .h .c
  | .ldHD => .regs .h .d
  | .ldHE => .regs .h .e
  | .ldHH => .regs .h .h
  | .ldHL => .regs .h .l
  | .ldHA => .regs .h .a
  | .ldLB => .regs .l .b
  | .ldLC => .regs .l .c
  | .ldLD => .regs .l .d
  | .ldLE => .regs .l .e
  | .ldLH => .regs .l .h
  | .ldLL => .regs .l .l
  | .ldLA => .regs .l .a
  | .halt => .none
  | .ldAB => .regs .a .b
  | .ldAC => .regs .a .c
  | .ldAD => .regs .a .d
  | .ldAE => .regs .a .e
  | .ldAH => .regs .a .h
  | .ldAL => .regs .a .l
  | .ldAA => .regs .a .a
  | .jp nn => .addr16 nn
  | .addAn n => .imm8 n
  | .ret => .none
  | .call nn => .addr16 nn
  | .subAn n => .imm8 n
  | .ldhStore n => .ioOffset8 n
  | .andAn n => .imm8 n
  | .xorAn n => .imm8 n
  | .ldhLoad n => .ioOffset8 n
  | .orAn n => .imm8 n

/-- The encoded length of a mnemonic (R100, R107). -/
def Mnemonic.length : Mnemonic → Nat
  | .incA => 1
  | .decA => 1
  | .ldRR => 1
  | .ret => 1
  | .halt => 1
  | .add => 2
  | .sub => 2
  | .and => 2
  | .or => 2
  | .xor => 2
  | .ldAn => 2
  | .ldhStore => 2
  | .ldhLoad => 2
  | .jr => 2
  | .jp => 3
  | .call => 3

/-- The instruction's length in bytes (R100). -/
def Instr.length (i : Instr) : Nat := i.mnemonic.length

/-- The record decode produces for an instruction (R101, R109). -/
def Instr.record (i : Instr) : Record :=
  { mnemonic := .known i.mnemonic, length := i.length, operand := i.operand }

end Sys2Proof
end

