-- ==== Sys2Proof/WellFormed.lean ====
section
/-! DEFINITION. When an instruction record is one that decode could produce (30_encoding.md R101, R107; 93 U10). Every
`Instr` is well formed by its types; a record that a host hands to the test port need not be. -/

namespace Sys2Proof

/-- R101, R107: the operand has the type the mnemonic takes, and LD r,r' names no F (R103, D13). -/
def Operand.fits (m : Mnemonic) (o : Operand) : Bool :=
  match m, o with
  | .add, .imm8 _ => true
  | .sub, .imm8 _ => true
  | .and, .imm8 _ => true
  | .or, .imm8 _ => true
  | .xor, .imm8 _ => true
  | .ldAn, .imm8 _ => true
  | .ldhStore, .ioOffset8 _ => true
  | .ldhLoad, .ioOffset8 _ => true
  | .jr, .rel8 _ => true
  | .jp, .addr16 _ => true
  | .call, .addr16 _ => true
  | .ldRR, .regs dst src => dst != .f && src != .f
  | .incA, .none => true
  | .decA, .none => true
  | .ret, .none => true
  | .halt, .none => true
  | _, _ => false

/-- R100, R101: the mnemonic is one of the sixteen, the length is the encoded one, the operand fits. -/
def Record.wf (r : Record) : Bool :=
  match r.mnemonic with
  | .known m => r.length == m.length && r.operand.fits m
  | .other _ => false

/-- An instruction is well formed when its record is; every instruction is (Laws/PerInstr.lean). -/
def Instr.wf (i : Instr) : Bool := i.record.wf

end Sys2Proof
end

