-- ==== Sys2Proof/Decode.lean ====
section
/-! DEFINITION. Decoding (30_encoding.md R100 to R111) and, after it, the encoder, both written from the opcode map of R107
and R108. The decoder is total on any bytes: it answers an instruction and the bytes after it, or the name of why not. -/

namespace Sys2Proof

/-- Why a list of bytes is no instruction. -/
inductive DecodeError where
  /-- R110: the first byte is one of the 192 unsupported opcode bytes. -/
  | unsupportedOpcode (op : Byte)
  /-- The list ends before the instruction does; a fetch through the bus always has three bytes, so no step meets it. -/
  | truncated
  deriving DecidableEq, Repr

/-- R105: `addr16` is `{byte2, byte1} = byte2 * 256 + byte1`: the byte at the lower address is the low half (D7). -/
def addr16 (b1 b2 : Byte) : Word := BitVec.ofNat 16 (b2.toNat * 256 + b1.toNat)

/-- The opcode map of R107 and R108, given the opcode byte and the two bytes after it; a byte outside the map is
unsupported (R110). A short instruction does not look at the bytes after its end. -/
def decodeBytes (op b1 b2 : Byte) : Option Instr :=
  match op.toNat with
  | 0x18 => some (.jr b1)
  | 0x3C => some .incA
  | 0x3D => some .decA
  | 0x3E => some (.ldAn b1)
  | 0x40 => some .ldBB
  | 0x41 => some .ldBC
  | 0x42 => some .ldBD
  | 0x43 => some .ldBE
  | 0x44 => some .ldBH
  | 0x45 => some .ldBL
  | 0x47 => some .ldBA
  | 0x48 => some .ldCB
  | 0x49 => some .ldCC
  | 0x4A => some .ldCD
  | 0x4B => some .ldCE
  | 0x4C => some .ldCH
  | 0x4D => some .ldCL
  | 0x4F => some .ldCA
  | 0x50 => some .ldDB
  | 0x51 => some .ldDC
  | 0x52 => some .ldDD
  | 0x53 => some .ldDE
  | 0x54 => some .ldDH
  | 0x55 => some .ldDL
  | 0x57 => some .ldDA
  | 0x58 => some .ldEB
  | 0x59 => some .ldEC
  | 0x5A => some .ldED
  | 0x5B => some .ldEE
  | 0x5C => some .ldEH
  | 0x5D => some .ldEL
  | 0x5F => some .ldEA
  | 0x60 => some .ldHB
  | 0x61 => some .ldHC
  | 0x62 => some .ldHD
  | 0x63 => some .ldHE
  | 0x64 => some .ldHH
  | 0x65 => some .ldHL
  | 0x67 => some .ldHA
  | 0x68 => some .ldLB
  | 0x69 => some .ldLC
  | 0x6A => some .ldLD
  | 0x6B => some .ldLE
  | 0x6C => some .ldLH
  | 0x6D => some .ldLL
  | 0x6F => some .ldLA
  | 0x76 => some .halt
  | 0x78 => some .ldAB
  | 0x79 => some .ldAC
  | 0x7A => some .ldAD
  | 0x7B => some .ldAE
  | 0x7C => some .ldAH
  | 0x7D => some .ldAL
  | 0x7F => some .ldAA
  | 0xC3 => some (.jp (addr16 b1 b2))
  | 0xC6 => some (.addAn b1)
  | 0xC9 => some .ret
  | 0xCD => some (.call (addr16 b1 b2))
  | 0xD6 => some (.subAn b1)
  | 0xE0 => some (.ldhStore b1)
  | 0xE6 => some (.andAn b1)
  | 0xEE => some (.xorAn b1)
  | 0xF0 => some (.ldhLoad b1)
  | 0xF6 => some (.orAn b1)
  | _ => none

/-- R109: the instruction at the head of a list of bytes, and the bytes after it. -/
def decode : List Byte → Except DecodeError (Instr × List Byte)
  | [] => .error .truncated
  | op :: rest =>
    match decodeBytes op (rest.getD 0 0#8) (rest.getD 1 0#8) with
    | none => .error (.unsupportedOpcode op)
    | some i => if rest.length + 1 < i.length then .error .truncated else .ok (i, (op :: rest).drop i.length)

/-- The lowest three bytes of a word whose bits above `nbits` are dropped, lowest byte first: the first byte of an
instruction stands at the lowest address (R104). -/
def tableBytes (nbits w : Nat) : List Byte :=
  let v := w % 2 ^ nbits
  [BitVec.ofNat 8 v, BitVec.ofNat 8 (v / 256), BitVec.ofNat 8 (v / 65536)]

/-- What the decoder reads from an instruction whose bits are `w`, numbered as spec/opcode_table.json numbers them. -/
def decodeTableWord (nbits w : Nat) : Option Instr :=
  match decode (tableBytes nbits w) with
  | .ok (i, _) => some i
  | .error _ => none

/-- The opcode byte of an instruction (R107, R108). -/
def Instr.opcode : Instr → Byte
  | .jr _ => 0x18#8
  | .incA => 0x3C#8
  | .decA => 0x3D#8
  | .ldAn _ => 0x3E#8
  | .ldBB => 0x40#8
  | .ldBC => 0x41#8
  | .ldBD => 0x42#8
  | .ldBE => 0x43#8
  | .ldBH => 0x44#8
  | .ldBL => 0x45#8
  | .ldBA => 0x47#8
  | .ldCB => 0x48#8
  | .ldCC => 0x49#8
  | .ldCD => 0x4A#8
  | .ldCE => 0x4B#8
  | .ldCH => 0x4C#8
  | .ldCL => 0x4D#8
  | .ldCA => 0x4F#8
  | .ldDB => 0x50#8
  | .ldDC => 0x51#8
  | .ldDD => 0x52#8
  | .ldDE => 0x53#8
  | .ldDH => 0x54#8
  | .ldDL => 0x55#8
  | .ldDA => 0x57#8
  | .ldEB => 0x58#8
  | .ldEC => 0x59#8
  | .ldED => 0x5A#8
  | .ldEE => 0x5B#8
  | .ldEH => 0x5C#8
  | .ldEL => 0x5D#8
  | .ldEA => 0x5F#8
  | .ldHB => 0x60#8
  | .ldHC => 0x61#8
  | .ldHD => 0x62#8
  | .ldHE => 0x63#8
  | .ldHH => 0x64#8
  | .ldHL => 0x65#8
  | .ldHA => 0x67#8
  | .ldLB => 0x68#8
  | .ldLC => 0x69#8
  | .ldLD => 0x6A#8
  | .ldLE => 0x6B#8
  | .ldLH => 0x6C#8
  | .ldLL => 0x6D#8
  | .ldLA => 0x6F#8
  | .halt => 0x76#8
  | .ldAB => 0x78#8
  | .ldAC => 0x79#8
  | .ldAD => 0x7A#8
  | .ldAE => 0x7B#8
  | .ldAH => 0x7C#8
  | .ldAL => 0x7D#8
  | .ldAA => 0x7F#8
  | .jp _ => 0xC3#8
  | .addAn _ => 0xC6#8
  | .ret => 0xC9#8
  | .call _ => 0xCD#8
  | .subAn _ => 0xD6#8
  | .ldhStore _ => 0xE0#8
  | .andAn _ => 0xE6#8
  | .xorAn _ => 0xEE#8
  | .ldhLoad _ => 0xF0#8
  | .orAn _ => 0xF6#8

/-- The operand bytes after the opcode byte (R102, R105, R106). -/
def Operand.bytes : Operand → List Byte
  | .none => []
  | .imm8 n => [n]
  | .rel8 e => [e]
  | .ioOffset8 n => [n]
  | .addr16 nn => [nn.extractLsb' 0 8, nn.extractLsb' 8 8]
  | .regs _ _ => []

/-- The bytes of an instruction in memory order (R102). -/
def encode (i : Instr) : List Byte := i.opcode :: i.operand.bytes

/-- The register codes of format RR (R103); F has none. -/
def Reg8.code : Reg8 → Option Nat
  | .b => some 0
  | .c => some 1
  | .d => some 2
  | .e => some 3
  | .h => some 4
  | .l => some 5
  | .a => some 7
  | .f => none

end Sys2Proof
end

