-- ==== Sys2Proof/Machine/Defaults.lean ====
section
/-! DEFINITION. The default values of the OPEN parameters (00_scope.md R5), each a named value of the spec: RESET (R40, D1),
IO_ADDR (R31, D8), CYCLE_COST (R275, D4), JR_BASE (R174, D5), and what a byte of memory nothing has written reads as (the
default INIT_RAM, R42, D2). `State.reset` takes them; no statement about all states does. -/

namespace Sys2Proof.Machine

/-- DESIGN CHOICE (log 1, unsafe): RESET_ZERO, "A = B = C = D = E = H = L = F = 0x00, SP = 0x0000, PC = 0x0000" (R40). -/
def resetZero : ResetRegs :=
  { a := 0#8, f := 0#8, b := 0#8, c := 0#8, d := 0#8, e := 0#8, h := 0#8, l := 0#8, sp := 0#16, pc := 0#16 }

/-- RESET_POSTBOOT, the spec's second preset, for information (R40); `State.reset` does not take it. -/
def resetPostBoot : ResetRegs :=
  { a := 0x01#8, f := 0xB0#8, b := 0x00#8, c := 0x13#8, d := 0x00#8, e := 0xD8#8, h := 0x01#8, l := 0x4D#8,
    sp := 0xFFFE#16, pc := 0x0100#16 }

/-- DESIGN CHOICE (log 5, unsafe): the default IO_ADDR of R31. -/
def defaultIoAddr : IoAddr :=
  { div := 0xFF04#16, tima := 0xFF05#16, tma := 0xFF06#16, tac := 0xFF07#16, lcdc := 0xFF40#16, stat := 0xFF41#16,
    scy := 0xFF42#16, scx := 0xFF43#16, ly := 0xFF44#16, wy := 0xFF4A#16, wx := 0xFF4B#16 }

/-- DESIGN CHOICE (log 6, unsafe): the default CYCLE_COST of R275. -/
def defaultCycleCost : CycleCost :=
  { add := 8, sub := 8, and := 8, or := 8, xor := 8, incA := 4, decA := 4, ldRR := 4, ldAn := 8, ldhStore := 12,
    ldhLoad := 12, jp := 16, jr := 12, call := 24, ret := 16, halt := 4 }

/-- DESIGN CHOICE (log 7, unsafe): the default JR_BASE of R174, the source's literal formula. -/
def defaultJrBase : JrBase := .literal

/-- The parameters at their defaults. -/
def defaultParams : Params :=
  { io := defaultIoAddr, cost := defaultCycleCost, jrBase := defaultJrBase }

/-- DESIGN CHOICE (log 2, unsafe): the default INIT_RAM, "0x00 for every byte" (R42): what an unlisted address reads as. -/
def unlistedByte : Byte := 0#8

end Sys2Proof.Machine
end

