-- ==== Sys2Proof/Machine/State.lean ====
section
/-! DEFINITION. The state of the block (10_state.md R20, R30, R38), why a step can stop, and the state after reset. The
peripheral registers are bytes of the store (R31) and have no second home. -/

namespace Sys2Proof.Machine

/-- The 65536-byte store (R30) as (address, byte) pairs: addresses strictly rising, no entry equal to `unlistedByte`. -/
abbrev Memory := List Host.Cell

/-- Everything the spec gives the machine (R20, R30, R38), and the parameters fixed for the run (R39; log 4). -/
structure State where
  /-- Register A (R20). -/
  a : Byte
  /-- Register B (R20). -/
  b : Byte
  /-- Register C (R20). -/
  c : Byte
  /-- Register D (R20). -/
  d : Byte
  /-- Register E (R20). -/
  e : Byte
  /-- Register H (R20). -/
  h : Byte
  /-- Register L (R20). -/
  l : Byte
  /-- The flag register: Z, N, H, C in bits 7, 6, 5, 4 (R23). -/
  f : Byte
  /-- The program counter (R26). -/
  pc : Word
  /-- The stack pointer, the address of the byte most recently pushed (R27). -/
  sp : Word
  /-- The store, the peripheral registers and IE among its bytes (R30, R31, R36). -/
  mem : Memory
  /-- `div_acc`: cycles counted since DIV last incremented (R38). -/
  divAcc : Nat
  /-- `tima_acc`: cycles counted toward the next TIMA increment (R38). -/
  timaAcc : Nat
  /-- `ly_acc`: cycles counted since LY last incremented (R38). -/
  lyAcc : Nat
  /-- IO_ADDR, CYCLE_COST and JR_BASE, which no operation changes (R5, R39; log 4). -/
  params : Params
  deriving DecidableEq, Repr

/-- What UnsupportedOpcode carries (R200): "the opcode byte or the mnemonic". -/
inductive Unsupported where
  | opcode (op : Byte)
  | mnemonic (name : String)
  deriving DecidableEq, Repr

/-- The four fault kinds (R200). Each carries the value R200 names, for diagnosis (D30), and the state the fault leaves
(R207 (4)), which the host may inspect. Every one ends the run (R207, R208). All four are safe: the spec itself stops there. -/
inductive Fault where
  /-- E0 (R201). Raised by the host port for an address outside 0 to 65535; no instruction reaches it (R62). Safe. -/
  | invalidAddress (addr : Int) (left : State)
  /-- E1 (R202). Raised by `busWrite` for ROM0, ROMX and `IO_ADDR.LY`: by CALL, by LDH (n),A, by the host port. Safe; at
  LY it is the spec's decision D10 (log 9). -/
  | readOnlyViolation (addr : Word) (left : State)
  /-- E2 (R203). Raised by the host port for a value outside 0 to 255; no instruction reaches it. Safe. -/
  | invalidValue (value : Int) (left : State)
  /-- E3 (R204). Raised at decode for the 192 unsupported bytes, and by the test port for a mnemonic outside the sixteen.
  Safe. -/
  | unsupportedOpcode (what : Unsupported) (left : State)
  deriving DecidableEq, Repr

/-- What the model does not accept. No instruction and no step is refused: the last three are raised by host operations. -/
inductive Refusal where
  /-- An instruction that has no meaning yet, refused in `exec`'s own arm. No arm is. Safe. -/
  | notModelled (mnemonic : String)
  /-- The test port was handed an operand of the wrong type for the mnemonic, which "has no meaning: refuse" (U10). Safe. -/
  | malformedRecord
  /-- Reset with a ROM image not of 32768 bytes or an external RAM image not of 8192 bytes (R74, D18). Safe. -/
  | imageSize
  /-- Reset with parameters outside the constraints of R31, R40, R41, R275. Safe. -/
  | badParameter
  deriving DecidableEq, Repr

/-- The state right after reset: every parameter at the spec's default (R40 to R43; log 1, 2, 5, 6, 7), the accumulators
0 (R43), and no program in the ROM (log 3). Unsafe where a log entry says so. -/
def State.reset : State where
  a := resetZero.a
  b := resetZero.b
  c := resetZero.c
  d := resetZero.d
  e := resetZero.e
  h := resetZero.h
  l := resetZero.l
  f := resetZero.f
  pc := resetZero.pc
  sp := resetZero.sp
  mem := []
  divAcc := 0
  timaAcc := 0
  lyAcc := 0
  params := defaultParams

end Sys2Proof.Machine
end

