-- ==== Sys2Proof/Machine/Ops.lean ====
section
/-! DEFINITION. The named operations over memory and registers, and taking a fault. Every register and every raw byte of the
store is reached through these (10_state.md R20 to R23, R30; 00_scope.md R7). -/

namespace Sys2Proof.Machine

/-- What an operation that changes the state answers (00_scope.md R8): a next state, a fault or a refusal. -/
abbrev Result := Host.Outcome State Fault Refusal

/-- Go on with what an operation answered; a fault or a refusal ends the enclosing operation too (R7, R207 (1)). -/
def andThen {σ τ : Type} (o : Host.Outcome σ Fault Refusal) (k : σ → Host.Outcome τ Fault Refusal) :
    Host.Outcome τ Fault Refusal :=
  match o with
  | .next s => k s
  | .fault r => .fault r
  | .refused r => .refused r

/-- Taking a fault, for all four kinds (60_exceptions.md R207): the operation ends with the fault, the state left is the
state at the faulting line, nothing is saved, rolled back or vectored. There is no return from one (R208). -/
def raise {σ : Type} (mk : State → Fault) (s : State) : Host.Outcome σ Fault Refusal := .fault (mk s)

/-! ### The store -/

/-- The raw byte of the store at an address (R7 `mem[a]`, R30). -/
def Memory.read : Memory → Nat → Byte
  | [], _ => unlistedByte
  | (k, v) :: rest, a => if k = a then v else Memory.read rest a

/-- The store without an entry for the address. -/
def Memory.erase (m : Memory) (a : Nat) : Memory := m.filter fun cell => cell.1 != a

/-- An entry put in its place by address. -/
def Memory.insert : Memory → Nat → Byte → Memory
  | [], a, v => [(a, v)]
  | (k, w) :: rest, a, v => if a < k then (a, v) :: (k, w) :: rest else (k, w) :: Memory.insert rest a v

/-- `mem[a] <- v` (R7, R30). Writing what an unlisted address reads as removes the entry. -/
def Memory.write (m : Memory) (a : Nat) (v : Byte) : Memory :=
  if v = unlistedByte then m.erase a else (m.erase a).insert a v

/-- The canonical form: addresses strictly rising and inside the address space (R60), no entry equal to what an unlisted
address reads as. Equal stores in this form are equal lists. -/
abbrev Memory.wf (m : Memory) : Prop :=
  m.Pairwise (fun x y => x.1 < y.1) ∧ ∀ cell ∈ m, cell.2 ≠ unlistedByte ∧ cell.1 < 65536

/-- A run of bytes stored from an address upward (20_memory.md R74). -/
def Memory.load (m : Memory) (base : Nat) : List Byte → Memory
  | [] => m
  | v :: rest => Memory.load (m.write base v) (base + 1) rest

/-- `mem[a]`: the direct access of a peripheral (R67) and of the bus behind its checks. -/
def State.peek (s : State) (a : Word) : Byte := s.mem.read a.toNat

/-- `mem[a] <- v`: the direct access of a peripheral (R67) and of the bus behind its checks. -/
def State.poke (s : State) (a : Word) (v : Byte) : State := { s with mem := s.mem.write a.toNat v }

/-! ### The register file -/

/-- `reg[r]` (R7, R20). -/
def State.reg8 (s : State) : Reg8 → Byte
  | .a => s.a
  | .b => s.b
  | .c => s.c
  | .d => s.d
  | .e => s.e
  | .h => s.h
  | .l => s.l
  | .f => s.f

/-- `reg[r] <- v` (R7, R21); "every write to F, by any path, stores `v & 0xF0`" (R23). -/
def State.setReg8 (s : State) (r : Reg8) (v : Byte) : State :=
  match r with
  | .a => { s with a := v }
  | .b => { s with b := v }
  | .c => { s with c := v }
  | .d => { s with d := v }
  | .e => { s with e := v }
  | .h => { s with h := v }
  | .l => { s with l := v }
  | .f => { s with f := v &&& 0xF0#8 }

/-- `PC <- v` (R22). -/
def State.setPc (s : State) (v : Word) : State := { s with pc := v }

/-- `SP <- v` (R22). -/
def State.setSp (s : State) (v : Word) : State := { s with sp := v }

/-- The PC advance of a non-control-flow instruction: `PC := (PC + length) mod 65536` (R26). -/
def State.advance (s : State) (length : Nat) : State := s.setPc (BitVec.ofNat 16 (s.pc.toNat + length))

/-! ### The hidden counters (R38) -/

/-- `div_acc <- n`. -/
def State.setDivAcc (s : State) (n : Nat) : State := { s with divAcc := n }

/-- `tima_acc <- n`. -/
def State.setTimaAcc (s : State) (n : Nat) : State := { s with timaAcc := n }

/-- `ly_acc <- n`. -/
def State.setLyAcc (s : State) (n : Nat) : State := { s with lyAcc := n }

end Sys2Proof.Machine
end

