-- ==== Sys2Proof/Machine/Flags.lean ====
section
/-! DEFINITION. The flags (10_state.md R23, R28) and the flag computation of each arithmetic and logic instruction
(40_alu.md R132 to R138), on unbounded integers as the pseudocode has them. -/

namespace Sys2Proof.Machine

/-- `F = Z*128 + N*64 + H*32 + C*16` (R23). -/
def mkF (z n h c : Bool) : Byte :=
  BitVec.ofNat 8 (z.toNat * 128 + n.toNat * 64 + h.toNat * 32 + c.toNat * 16)

/-- F.Z, bit 7 (R23). -/
def flagZ (f : Byte) : Bool := f.getLsbD 7

/-- F.N, bit 6 (R23). -/
def flagN (f : Byte) : Bool := f.getLsbD 6

/-- F.H, bit 5 (R23). -/
def flagH (f : Byte) : Bool := f.getLsbD 5

/-- F.C, bit 4 (R23). -/
def flagC (f : Byte) : Bool := f.getLsbD 4

/-- R132: the flags of the 9-bit sum `a + n`. -/
def addFlags (a n : Byte) : Byte :=
  let result := a.toNat + n.toNat
  mkF (result % 256 == 0) false (decide (0x0F < a.toNat % 16 + n.toNat % 16)) (decide (255 < result))

/-- R133: the flags of the difference `a - n`. -/
def subFlags (a n : Byte) : Byte :=
  let result : Int := (a.toNat : Int) - n.toNat
  mkF (result % 256 == 0) true (decide (a.toNat % 16 < n.toNat % 16)) (decide (a.toNat < n.toNat))

/-- R134: H is set always. -/
def andFlags (result : Byte) : Byte := mkF (result == 0#8) false true false

/-- R135. -/
def orFlags (result : Byte) : Byte := mkF (result == 0#8) false false false

/-- R136. -/
def xorFlags (result : Byte) : Byte := mkF (result == 0#8) false false false

/-- R137: C keeps its old value. -/
def incFlags (a oldF : Byte) : Byte :=
  mkF ((a.toNat + 1) % 256 == 0) false (decide (0x0F < a.toNat % 16 + 1)) (flagC oldF)

/-- R138: C keeps its old value. -/
def decFlags (a oldF : Byte) : Byte :=
  mkF (((a.toNat : Int) - 1) % 256 == 0) true (decide (a.toNat % 16 < 1)) (flagC oldF)

end Sys2Proof.Machine
end

