-- ==== Sys2Proof/Machine/Alu.lean ====
section
/-! DEFINITION. The arithmetic and logic instructions (40_alu.md R130 to R138). The shared operations take the length that
advances PC, since the test port may hand in another than the encoded one (43_system.md R195). -/

namespace Sys2Proof.Machine

/-- What the seven instructions share (R131): A and F are written, PC advances by the length. -/
def writeAF (length : Nat) (result flags : Byte) (s : State) : Result :=
  .next (((s.setReg8 .a result).setReg8 .f flags).advance length)

/-- R132: `A + n`, the low 8 bits of the 9-bit sum. -/
def addImm (length : Nat) (n : Byte) (s : State) : Result :=
  writeAF length (BitVec.ofNat 8 (s.a.toNat + n.toNat)) (addFlags s.a n) s

/-- R133: `A - n` modulo 256. -/
def subImm (length : Nat) (n : Byte) (s : State) : Result :=
  writeAF length (BitVec.ofInt 8 ((s.a.toNat : Int) - n.toNat)) (subFlags s.a n) s

/-- R134. -/
def andImm (length : Nat) (n : Byte) (s : State) : Result :=
  writeAF length (s.a &&& n) (andFlags (s.a &&& n)) s

/-- R135. -/
def orImm (length : Nat) (n : Byte) (s : State) : Result :=
  writeAF length (s.a ||| n) (orFlags (s.a ||| n)) s

/-- R136. -/
def xorImm (length : Nat) (n : Byte) (s : State) : Result :=
  writeAF length (s.a ^^^ n) (xorFlags (s.a ^^^ n)) s

/-- R137: C is kept. -/
def incReg (length : Nat) (s : State) : Result :=
  writeAF length (BitVec.ofNat 8 (s.a.toNat + 1)) (incFlags s.a s.f) s

/-- R138: C is kept. -/
def decReg (length : Nat) (s : State) : Result :=
  writeAF length (BitVec.ofInt 8 ((s.a.toNat : Int) - 1)) (decFlags s.a s.f) s

/-- INC A (R137), length 1. -/
def execIncA (s : State) : Result := incReg 1 s

/-- DEC A (R138), length 1. -/
def execDecA (s : State) : Result := decReg 1 s

/-- ADD A,n (R132), length 2. -/
def execAddAn (n : Byte) (s : State) : Result := addImm 2 n s

/-- SUB A,n (R133), length 2. -/
def execSubAn (n : Byte) (s : State) : Result := subImm 2 n s

/-- AND A,n (R134), length 2. -/
def execAndAn (n : Byte) (s : State) : Result := andImm 2 n s

/-- OR A,n (R135), length 2. -/
def execOrAn (n : Byte) (s : State) : Result := orImm 2 n s

/-- XOR A,n (R136), length 2. -/
def execXorAn (n : Byte) (s : State) : Result := xorImm 2 n s

end Sys2Proof.Machine
end

