-- ==== Sys2Proof/Machine/Operands.lean ====
section
/-! DEFINITION. The operand forms (30_encoding.md R104 to R106), the halves of a word (20_memory.md R69) and the lookup of
the two parameters an instruction consults (42_control.md R174, 70_reset_and_hazards.md R275). -/

namespace Sys2Proof.Machine

/-- `sext_8(v)`: "`v` when `v < 128`, else `v - 256`" (00_scope.md R7). -/
def sext8 (v : Byte) : Int := if v.toNat < 128 then v.toNat else (v.toNat : Int) - 256

/-- `ioOffset8(n)`: the effective address `0xFF00 + n` (R106). -/
def ioAddress (n : Byte) : Word := BitVec.ofNat 16 (0xFF00 + n.toNat)

/-- The value of `JR_BASE` (R174, R5): 0 or 2. -/
def jrBaseValue : JrBase → Nat
  | .literal => 0
  | .afterInstruction => 2

/-- `rel8(e)`: `(P + JR_BASE + sext_8(e)) mod 65536` (R174). -/
def relTarget (p : Word) (base : JrBase) (e : Byte) : Word :=
  BitVec.ofInt 16 ((p.toNat : Int) + jrBaseValue base + sext8 e)

/-- `v[15:8]` (R6). -/
def hiByte (v : Word) : Byte := v.extractLsb' 8 8

/-- `v[7:0]` (R6). -/
def loByte (v : Word) : Byte := v.extractLsb' 0 8

/-- `{hi, lo}`: `hi * 256 + lo` (R6). -/
def wordOf (hi lo : Byte) : Word := BitVec.ofNat 16 (hi.toNat * 256 + lo.toNat)

/-- `cycles(m)` is `CYCLE_COST[m]` (R7, R275). -/
def cyclesOf (t : CycleCost) : Mnemonic → Nat
  | .add => t.add
  | .sub => t.sub
  | .and => t.and
  | .or => t.or
  | .xor => t.xor
  | .incA => t.incA
  | .decA => t.decA
  | .ldRR => t.ldRR
  | .ldAn => t.ldAn
  | .ldhStore => t.ldhStore
  | .ldhLoad => t.ldhLoad
  | .jp => t.jp
  | .jr => t.jr
  | .call => t.call
  | .ret => t.ret
  | .halt => t.halt

end Sys2Proof.Machine
end

