-- ==== Sys2Proof/Machine/Bus.lean ====
section
/-! DEFINITION. The Memory Bus (20_memory.md): the region table, echo resolution, `BusRead` and `BusWrite` with the write
effects of the peripheral registers. -/

namespace Sys2Proof.Machine

/-- The names of the twelve regions (R61). -/
inductive RegionName where
  | rom0
  | romx
  | vram
  | externalRam
  | wram0
  | wramx
  | echo
  | oam
  | unusable
  | io
  | hram
  | interruptEnable
  deriving DecidableEq, Repr

/-- A row of the region table: name, first and last address, permissions (R61). -/
structure Region where
  name : RegionName
  first : Nat
  last : Nat
  readable : Bool
  writable : Bool
  deriving DecidableEq, Repr

/-- The region table, "fixed at construction" (R61). -/
def regionTable : List Region :=
  [⟨.rom0, 0x0000, 0x3FFF, true, false⟩, ⟨.romx, 0x4000, 0x7FFF, true, false⟩, ⟨.vram, 0x8000, 0x9FFF, true, true⟩,
   ⟨.externalRam, 0xA000, 0xBFFF, true, true⟩, ⟨.wram0, 0xC000, 0xCFFF, true, true⟩,
   ⟨.wramx, 0xD000, 0xDFFF, true, true⟩, ⟨.echo, 0xE000, 0xFDFF, true, true⟩, ⟨.oam, 0xFE00, 0xFE9F, true, true⟩,
   ⟨.unusable, 0xFEA0, 0xFEFF, false, false⟩, ⟨.io, 0xFF00, 0xFF7F, true, true⟩,
   ⟨.hram, 0xFF80, 0xFFFE, true, true⟩, ⟨.interruptEnable, 0xFFFF, 0xFFFF, true, true⟩]

/-- The row owns the address. -/
def Region.owns (r : Region) (a : Nat) : Bool := decide (r.first ≤ a) && decide (a ≤ r.last)

/-- `region(a)` (R62); nothing for an address that maps to no region. -/
def regionOf (a : Nat) : Option Region := regionTable.find? fun r => r.owns a

/-- `resolve(a)`: "`a − 0x2000` when `0xE000 <= a <= 0xFDFF`, and `a` otherwise" (R63). -/
def resolve (a : Word) : Word :=
  if 0xE000 ≤ a.toNat ∧ a.toNat ≤ 0xFDFF then a - 0x2000#16 else a

/-- The unusable range, 0xFEA0 to 0xFEFF (R61, R64). -/
def isUnusable (a : Word) : Bool := decide (0xFEA0 ≤ a.toNat) && decide (a.toNat ≤ 0xFEFF)

/-- `BusRead(addr)` for a 16-bit address (R64). Its InvalidAddress line is unreachable there (R62), so the host port alone
has it (log 17); the last line is the source's "else 0xFF", dead with this table (U12). A read changes nothing (R72). -/
def busRead (addr : Word) (s : State) : Byte :=
  let a := resolve addr
  if isUnusable a then 0xFF#8
  else
    match regionOf a.toNat with
    | some r => if r.readable then s.peek a else 0xFF#8
    | none => 0xFF#8

/-- The store line of `BusWrite` at the resolved address `a`, with the write effects of R66: DIV clears itself and
`div_acc`, TAC stores the low three bits, LY faults (D9, D10; log 9). -/
def storeByte (addr a : Word) (v : Byte) (s : State) : Result :=
  if a = s.params.io.div then .next ((s.poke a 0#8).setDivAcc 0)
  else if a = s.params.io.tac then .next (s.poke a (v &&& 0x07#8))
  else if a = s.params.io.ly then raise (.readOnlyViolation addr) s
  else .next (s.poke a v)

/-- `BusWrite(addr, value)` for a 16-bit address and a byte (R65), the tests in the order of R65 and R206. -/
def busWrite (addr : Word) (v : Byte) (s : State) : Result :=
  let a := resolve addr
  match regionOf a.toNat with
  | none => raise (.invalidAddress addr.toNat) s
  | some r =>
    if isUnusable a then .next s
    else if r.writable then storeByte addr a v s
    else raise (.readOnlyViolation addr) s

end Sys2Proof.Machine
end

