-- ==== Sys2Proof/Machine/Stack.lean ====
section
/-! DEFINITION. The stack helpers of CALL and RET (42_control.md R170, R171). -/

namespace Sys2Proof.Machine

/-- Decrement SP and write a byte there (one half of R170); a fault leaves SP decremented and nothing stored. -/
def pushByte (v : Byte) (s : State) : Result :=
  let s1 := s.setSp (s.sp - 1#16)
  busWrite s1.sp v s1

/-- `push16(v)`: the high byte first, at the higher address, then the low byte (R170). -/
def push16 (v : Word) (s : State) : Result :=
  andThen (pushByte (hiByte v) s) fun s1 => pushByte (loByte v) s1

/-- `pop16()`: the low byte, then the high byte, SP incremented after each (R171). -/
def pop16 (s : State) : Word × State :=
  let lo := busRead s.sp s
  let s1 := s.setSp (s.sp + 1#16)
  let hi := busRead s1.sp s1
  (wordOf hi lo, s1.setSp (s1.sp + 1#16))

end Sys2Proof.Machine
end

