-- ==== Sys2Proof/Machine/Control.lean ====
section
/-! DEFINITION. The control-flow instructions (42_control.md R173 to R176), which set PC themselves. -/

namespace Sys2Proof.Machine

/-- R175: `push16((P + length) mod 65536)`, then `PC <- nn`; on a fault of a push PC still equals `P`. -/
def callTo (length : Nat) (nn : Word) (s : State) : Result :=
  andThen (push16 (BitVec.ofNat 16 (s.pc.toNat + length)) s) fun t => .next (t.setPc nn)

/-- JP nn (R173). -/
def execJp (nn : Word) (s : State) : Result := .next (s.setPc nn)

/-- JR e (R174): `PC <- (P + JR_BASE + sext_8(e)) mod 65536`. -/
def execJr (e : Byte) (s : State) : Result := .next (s.setPc (relTarget s.pc s.params.jrBase e))

/-- CALL nn (R175), "of length 3". -/
def execCall (nn : Word) (s : State) : Result := callTo 3 nn s

/-- RET (R176): `PC <- pop16()`. -/
def execRet (s : State) : Result :=
  let r := pop16 s
  .next (r.2.setPc r.1)

end Sys2Proof.Machine
end

