-- ==== Sys2Proof/Machine/Load.lean ====
section
/-! DEFINITION. The load instructions (41_load.md R150 to R153), none of which writes a flag. -/

namespace Sys2Proof.Machine

/-- R150: `reg[dst] <- reg[src]`. -/
def ldReg (length : Nat) (dst src : Reg8) (s : State) : Result :=
  .next ((s.setReg8 dst (s.reg8 src)).advance length)

/-- R151: `reg[A] <- n`. -/
def ldImm (length : Nat) (n : Byte) (s : State) : Result := .next ((s.setReg8 .a n).advance length)

/-- R152: `MemWrite(0xFF00 + n, 1, reg[A])`; when the write faults, PC is not advanced. -/
def ldhStore (length : Nat) (n : Byte) (s : State) : Result :=
  andThen (busWrite (ioAddress n) s.a s) fun t => .next (t.advance length)

/-- R153: `reg[A] <- MemRead(0xFF00 + n, 1)`. -/
def ldhLoad (length : Nat) (n : Byte) (s : State) : Result :=
  .next ((s.setReg8 .a (busRead (ioAddress n) s)).advance length)

/-- LD A,n (R151), length 2. -/
def execLdAn (n : Byte) (s : State) : Result := ldImm 2 n s

/-- LDH (n),A (R152), length 2. -/
def execLdhStore (n : Byte) (s : State) : Result := ldhStore 2 n s

/-- LDH A,(n) (R153), length 2. -/
def execLdhLoad (n : Byte) (s : State) : Result := ldhLoad 2 n s

/-- LD B,B (0x40, R150), length 1. -/
def execLdBB (s : State) : Result := ldReg 1 .b .b s

/-- LD B,C (0x41, R150), length 1. -/
def execLdBC (s : State) : Result := ldReg 1 .b .c s

/-- LD B,D (0x42, R150), length 1. -/
def execLdBD (s : State) : Result := ldReg 1 .b .d s

/-- LD B,E (0x43, R150), length 1. -/
def execLdBE (s : State) : Result := ldReg 1 .b .e s

/-- LD B,H (0x44, R150), length 1. -/
def execLdBH (s : State) : Result := ldReg 1 .b .h s

/-- LD B,L (0x45, R150), length 1. -/
def execLdBL (s : State) : Result := ldReg 1 .b .l s

/-- LD B,A (0x47, R150), length 1. -/
def execLdBA (s : State) : Result := ldReg 1 .b .a s

/-- LD C,B (0x48, R150), length 1. -/
def execLdCB (s : State) : Result := ldReg 1 .c .b s

/-- LD C,C (0x49, R150), length 1. -/
def execLdCC (s : State) : Result := ldReg 1 .c .c s

/-- LD C,D (0x4A, R150), length 1. -/
def execLdCD (s : State) : Result := ldReg 1 .c .d s

/-- LD C,E (0x4B, R150), length 1. -/
def execLdCE (s : State) : Result := ldReg 1 .c .e s

/-- LD C,H (0x4C, R150), length 1. -/
def execLdCH (s : State) : Result := ldReg 1 .c .h s

/-- LD C,L (0x4D, R150), length 1. -/
def execLdCL (s : State) : Result := ldReg 1 .c .l s

/-- LD C,A (0x4F, R150), length 1. -/
def execLdCA (s : State) : Result := ldReg 1 .c .a s

/-- LD D,B (0x50, R150), length 1. -/
def execLdDB (s : State) : Result := ldReg 1 .d .b s

/-- LD D,C (0x51, R150), length 1. -/
def execLdDC (s : State) : Result := ldReg 1 .d .c s

/-- LD D,D (0x52, R150), length 1. -/
def execLdDD (s : State) : Result := ldReg 1 .d .d s

/-- LD D,E (0x53, R150), length 1. -/
def execLdDE (s : State) : Result := ldReg 1 .d .e s

/-- LD D,H (0x54, R150), length 1. -/
def execLdDH (s : State) : Result := ldReg 1 .d .h s

/-- LD D,L (0x55, R150), length 1. -/
def execLdDL (s : State) : Result := ldReg 1 .d .l s

/-- LD D,A (0x57, R150), length 1. -/
def execLdDA (s : State) : Result := ldReg 1 .d .a s

/-- LD E,B (0x58, R150), length 1. -/
def execLdEB (s : State) : Result := ldReg 1 .e .b s

/-- LD E,C (0x59, R150), length 1. -/
def execLdEC (s : State) : Result := ldReg 1 .e .c s

/-- LD E,D (0x5A, R150), length 1. -/
def execLdED (s : State) : Result := ldReg 1 .e .d s

/-- LD E,E (0x5B, R150), length 1. -/
def execLdEE (s : State) : Result := ldReg 1 .e .e s

/-- LD E,H (0x5C, R150), length 1. -/
def execLdEH (s : State) : Result := ldReg 1 .e .h s

/-- LD E,L (0x5D, R150), length 1. -/
def execLdEL (s : State) : Result := ldReg 1 .e .l s

/-- LD E,A (0x5F, R150), length 1. -/
def execLdEA (s : State) : Result := ldReg 1 .e .a s

/-- LD H,B (0x60, R150), length 1. -/
def execLdHB (s : State) : Result := ldReg 1 .h .b s

/-- LD H,C (0x61, R150), length 1. -/
def execLdHC (s : State) : Result := ldReg 1 .h .c s

/-- LD H,D (0x62, R150), length 1. -/
def execLdHD (s : State) : Result := ldReg 1 .h .d s

/-- LD H,E (0x63, R150), length 1. -/
def execLdHE (s : State) : Result := ldReg 1 .h .e s

/-- LD H,H (0x64, R150), length 1. -/
def execLdHH (s : State) : Result := ldReg 1 .h .h s

/-- LD H,L (0x65, R150), length 1. -/
def execLdHL (s : State) : Result := ldReg 1 .h .l s

/-- LD H,A (0x67, R150), length 1. -/
def execLdHA (s : State) : Result := ldReg 1 .h .a s

/-- LD L,B (0x68, R150), length 1. -/
def execLdLB (s : State) : Result := ldReg 1 .l .b s

/-- LD L,C (0x69, R150), length 1. -/
def execLdLC (s : State) : Result := ldReg 1 .l .c s

/-- LD L,D (0x6A, R150), length 1. -/
def execLdLD (s : State) : Result := ldReg 1 .l .d s

/-- LD L,E (0x6B, R150), length 1. -/
def execLdLE (s : State) : Result := ldReg 1 .l .e s

/-- LD L,H (0x6C, R150), length 1. -/
def execLdLH (s : State) : Result := ldReg 1 .l .h s

/-- LD L,L (0x6D, R150), length 1. -/
def execLdLL (s : State) : Result := ldReg 1 .l .l s

/-- LD L,A (0x6F, R150), length 1. -/
def execLdLA (s : State) : Result := ldReg 1 .l .a s

/-- LD A,B (0x78, R150), length 1. -/
def execLdAB (s : State) : Result := ldReg 1 .a .b s

/-- LD A,C (0x79, R150), length 1. -/
def execLdAC (s : State) : Result := ldReg 1 .a .c s

/-- LD A,D (0x7A, R150), length 1. -/
def execLdAD (s : State) : Result := ldReg 1 .a .d s

/-- LD A,E (0x7B, R150), length 1. -/
def execLdAE (s : State) : Result := ldReg 1 .a .e s

/-- LD A,H (0x7C, R150), length 1. -/
def execLdAH (s : State) : Result := ldReg 1 .a .h s

/-- LD A,L (0x7D, R150), length 1. -/
def execLdAL (s : State) : Result := ldReg 1 .a .l s

/-- LD A,A (0x7F, R150), length 1. -/
def execLdAA (s : State) : Result := ldReg 1 .a .a s

end Sys2Proof.Machine
end

