-- ==== Sys2Proof/Machine/System.lean ====
section
/-! DEFINITION. HALT (43_system.md R190), the only system instruction there is (R191). -/

namespace Sys2Proof.Machine

/-- R190: "changes no register but PC, no memory, no peripheral state"; there is no halted flag (D22; log 13). -/
def noOperation (length : Nat) (s : State) : Result := .next (s.advance length)

/-- HALT (R190), length 1. -/
def execHalt (s : State) : Result := noOperation 1 s

end Sys2Proof.Machine
end

