-- ==== Sys2Proof/Machine/Loops.lean ====
section
/-! DEFINITION. The while loop the two peripherals share (60_exceptions.md R222, R232). -/

namespace Sys2Proof.Machine

/-- `while acc >= p: acc <- acc - p; tick`, with the accumulator and the state it leaves. The fuel bounds the turns;
`acc` turns are enough for every `p` above 0, since each takes `p` away. -/
def whileGe (p : Nat) (tick : State → State) : Nat → Nat → State → Nat × State
  | 0, acc, s => (acc, s)
  | fuel + 1, acc, s => if p ≤ acc then whileGe p tick fuel (acc - p) (tick s) else (acc, s)

/-- The loop with fuel enough. -/
def drain (p : Nat) (tick : State → State) (acc : Nat) (s : State) : Nat × State := whileGe p tick acc acc s

end Sys2Proof.Machine
end

