-- ==== Sys2Proof/Machine/Scanline.lean ====
section
/-! DEFINITION. The Scanline Clock (60_exceptions.md R230 to R235), which accesses its registers directly (20_memory.md R67). -/

namespace Sys2Proof.Machine

/-- LCDC bit 7: state LCD_ON (R231, 10_state.md R34). -/
def lcdOn (s : State) : Bool := (s.peek s.params.io.lcdc).getLsbD 7

/-- One LY increment, modulo 154 (R232). -/
def lyTick (s : State) : State :=
  s.poke s.params.io.ly (BitVec.ofNat 8 (((s.peek s.params.io.ly).toNat + 1) % 154))

/-- `ScanlineTick(cycles)` (R232), with the threshold "greater than or equal to 456" (R233). -/
def scanlineTick (cycles : Nat) (s : State) : State :=
  if lcdOn s then
    let r := drain 456 lyTick (s.lyAcc + cycles) s
    r.2.setLyAcc r.1
  else (s.poke s.params.io.ly 0#8).setLyAcc 0

end Sys2Proof.Machine
end

