-- ==== Sys2Proof/Machine/Timer.lean ====
section
/-! DEFINITION. The Timer Peripheral (60_exceptions.md R220 to R226), which accesses its registers directly (20_memory.md
R67). -/

namespace Sys2Proof.Machine

/-- `period(tac)` (R221). -/
def period (tac : Byte) : Nat :=
  match tac.toNat % 4 with
  | 0 => 1024
  | 1 => 16
  | 2 => 64
  | _ => 256

/-- TAC bit 2 (10_state.md R33). -/
def timerEnabled (tac : Byte) : Bool := tac.getLsbD 2

/-- One DIV increment, modulo 256 (R222 part 1). -/
def divTick (s : State) : State :=
  s.poke s.params.io.div (BitVec.ofNat 8 ((s.peek s.params.io.div).toNat + 1))

/-- One TIMA increment, with the reload from TMA tested after it (R222 part 4, R223, D15; log 11). -/
def timaTick (s : State) : State :=
  let t := (s.peek s.params.io.tima).toNat + 1
  s.poke s.params.io.tima (if 255 < t then s.peek s.params.io.tma else BitVec.ofNat 8 t)

/-- Part 1 of R222: the divider. -/
def dividerStep (cycles : Nat) (s : State) : State :=
  let r := drain 256 divTick (s.divAcc + cycles) s
  r.2.setDivAcc r.1

/-- Parts 3 and 4 of R222: the interval counter. -/
def intervalStep (cycles : Nat) (s : State) : State :=
  let r := drain (period (s.peek s.params.io.tac)) timaTick (s.timaAcc + cycles) s
  r.2.setTimaAcc r.1

/-- The procedure of R222: the divider, then the interval counter while the timer is enabled (R224). -/
def timerRun (cycles : Nat) (s : State) : State :=
  let s1 := dividerStep cycles s
  if timerEnabled (s1.peek s1.params.io.tac) then intervalStep cycles s1 else s1

/-- `TimerStep(cycles)`: a count of 0 changes nothing (R225 (a)), any other runs the procedure of R222. The count is a
natural number (R248, D24; log 16). DESIGN CHOICE (log 20): R225 (a) is followed where R222's loop would still turn at a
count of 0, which is with `tima_acc` at or above the period. -/
def timerStep (cycles : Nat) (s : State) : State :=
  if cycles = 0 then s else timerRun cycles s

end Sys2Proof.Machine
end

