-- ==== Sys2Proof/Machine/Engine.lean ====
section
/-! DEFINITION. Fetch (43_system.md R192), the engine step (R193) and the system step (60_exceptions.md R240), and placing
an instruction where the next fetch finds it. -/

namespace Sys2Proof.Machine

/-- R104, R192: the bytes at PC, PC+1 and PC+2, each address modulo 65536, read through the bus. Reads have no side effect,
so reading a byte the instruction does not have cannot be observed (R109, R111). -/
def fetchBytes (s : State) : List Byte :=
  [busRead s.pc s, busRead (s.pc + 1#16) s, busRead (s.pc + 2#16) s]

/-- `EngineStep()` (R193): decode at PC, execute, return the cycle cost. UnsupportedOpcode comes before any effect (R204,
R206); three bytes are fetched, so decoding fails for no other reason. -/
def engineStep (s : State) : Host.Outcome (State × Nat) Fault Refusal :=
  match decode (fetchBytes s) with
  | .error _ => raise (.unsupportedOpcode (.opcode (busRead s.pc s))) s
  | .ok (i, _) => andThen (exec i s) fun t => .next (t, cyclesOf s.params.cost i.mnemonic)

/-- The two peripherals, fed an instruction's cost in the order of R240. -/
def peripherals (cycles : Nat) (s : State) : State := scanlineTick cycles (timerStep cycles s)

/-- `SystemStep()` (R240): a fault of the engine ends the run there, the peripherals not advanced (R207 (1)). -/
def systemStep (s : State) : Result :=
  andThen (engineStep s) fun r => .next (peripherals r.2 r.1)

/-- The raw store byte a fetch at the address reads, set; a fetch from the unusable range reads none (R63, R64). -/
def placeByte (s : State) (addr : Word) (v : Byte) : State :=
  if isUnusable (resolve addr) then s else s.poke (resolve addr) v

/-- The three lowest bytes of an instruction's bits stored where the next fetch reads them: it stands for the host's load
of a ROM image (R74; log 3), so it passes no permission check. -/
def placeInstruction (s : State) (nbits w : Nat) : State :=
  let bytes := tableBytes nbits w
  placeByte (placeByte (placeByte s s.pc (bytes.getD 0 0#8)) (s.pc + 1#16) (bytes.getD 1 0#8)) (s.pc + 2#16)
    (bytes.getD 2 0#8)

end Sys2Proof.Machine
end

