-- ==== Sys2Proof/Machine/Step.lean ====
section
/-! DEFINITION. The step of the model is `SystemStep` (60_exceptions.md R240, D27). -/

namespace Sys2Proof.Machine

/-- One system step: a next state, a fault, or (never, see Certificates/Slice0/Obligations.lean) a refusal. -/
def step (s : State) : Host.Outcome State Fault Refusal := systemStep s

/-- `s` with the instruction whose bits are `w` (those above `nbits` zero) where `step` fetches its next instruction. -/
def State.withFetchWord (s : State) (nbits w : Nat) : State := placeInstruction s nbits w

end Sys2Proof.Machine
end

