-- ==== Sys2Proof/Machine/HostPort.lean ====
section
/-! DEFINITION. What the host may do between system steps (60_exceptions.md R242): reset (70_reset_and_hazards.md R260), the
bus port with integers (20_memory.md R84), `SetReg` (R246), the snapshot (R245) and direct execution (43_system.md R195).
`engineStep`, `timerStep`, `scanlineTick` and `systemStep` are its other operations. -/

namespace Sys2Proof.Machine

/-- `BusRead(addr)` at the host port: an address that is in no region raises InvalidAddress (R84, R201, D25). -/
def hostRead (addr : Int) (s : State) : Host.Outcome Byte Fault Refusal :=
  if addr < 0 ∨ 65535 < addr then raise (.invalidAddress addr) s
  else .next (busRead (BitVec.ofInt 16 addr) s)

/-- `BusWrite(addr, value)` at the host port: InvalidValue is tested first, then InvalidAddress (R65, R84, R203, R206). -/
def hostWrite (addr value : Int) (s : State) : Result :=
  if value < 0 ∨ 255 < value then raise (.invalidValue value) s
  else if addr < 0 ∨ 65535 < addr then raise (.invalidAddress addr) s
  else busWrite (BitVec.ofInt 16 addr) (BitVec.ofInt 8 value) s

/-- A register the host may set (R246). -/
inductive RegName where
  | reg8 (r : Reg8)
  | pc
  | sp
  deriving DecidableEq, Repr

/-- `SetReg(r, v)` through the masked accessors: modulo 256, `& 0xF0` for F, modulo 65536 for PC and SP (R246, D23). -/
def setReg (r : RegName) (v : Int) (s : State) : State :=
  match r with
  | .reg8 x => s.setReg8 x (BitVec.ofInt 8 v)
  | .pc => s.setPc (BitVec.ofInt 16 v)
  | .sp => s.setSp (BitVec.ofInt 16 v)

/-- "a structure reporting A,F,B,C,D,E,H,L,SP,PC" (R245); the byte-level `read(addr)` is `hostRead`. -/
structure Snapshot where
  a : Byte
  f : Byte
  b : Byte
  c : Byte
  d : Byte
  e : Byte
  h : Byte
  l : Byte
  sp : Word
  pc : Word
  deriving DecidableEq, Repr

/-- `Snapshot()` (R245): the registers as they stand; the hidden accumulators are not in it. -/
def snapshot (s : State) : Snapshot :=
  { a := s.a, f := s.f, b := s.b, c := s.c, d := s.d, e := s.e, h := s.h, l := s.l, sp := s.sp, pc := s.pc }

/-- `Execute` on a record's fields (R195): the record's own length advances PC and makes CALL's return address; an operand
of the wrong type has no meaning and is refused (U10; log 15). -/
def executeFields (m : Mnemonic) (length : Nat) (o : Operand) (s : State) : Result :=
  match m, o with
  | .add, .imm8 n => addImm length n s
  | .sub, .imm8 n => subImm length n s
  | .and, .imm8 n => andImm length n s
  | .or, .imm8 n => orImm length n s
  | .xor, .imm8 n => xorImm length n s
  | .incA, .none => incReg length s
  | .decA, .none => decReg length s
  | .ldRR, .regs dst src => if dst = .f ∨ src = .f then .refused .malformedRecord else ldReg length dst src s
  | .ldAn, .imm8 n => ldImm length n s
  | .ldhStore, .ioOffset8 n => ldhStore length n s
  | .ldhLoad, .ioOffset8 n => ldhLoad length n s
  | .jp, .addr16 nn => execJp nn s
  | .jr, .rel8 e => execJr e s
  | .call, .addr16 nn => callTo length nn s
  | .ret, .none => execRet s
  | .halt, .none => noOperation length s
  | _, _ => .refused .malformedRecord

/-- Direct execution (test port, R195): no fetch; a mnemonic outside the sixteen raises UnsupportedOpcode (R204); the cost
returned is `cycles(mnemonic)`. -/
def directExecute (r : Record) (s : State) : Host.Outcome (State × Nat) Fault Refusal :=
  match r.mnemonic with
  | .other name => raise (.unsupportedOpcode (.mnemonic name)) s
  | .known m => andThen (executeFields m r.length r.operand s) fun t => .next (t, cyclesOf s.params.cost m)

/-- What reset is given (R5, R260): the cartridge image, INIT_RAM, RESET and the parameters of the run. -/
structure ResetArgs where
  /-- The ROM image, exactly 32768 bytes (R74). -/
  rom : List Byte
  /-- The external RAM image, exactly 8192 bytes when present (R74). -/
  eram : Option (List Byte)
  /-- INIT_RAM (R42): the byte of an address is the first cell's for it, 0x00 where there is none (its default). Cells
  outside `initAddress` are not used. -/
  initRam : Memory
  /-- RESET (R40). -/
  regs : ResetRegs
  params : Params
  deriving DecidableEq, Repr

/-- The addresses INIT_RAM fills: 0x8000 to 0xFFFF (R42) but the echo and unusable ranges, which no rule reads (R30;
log 19). -/
def initAddress (a : Nat) : Bool :=
  decide (0x8000 ≤ a) && decide (a ≤ 0xFFFF) && !(decide (0xE000 ≤ a) && decide (a ≤ 0xFDFF))
    && !(decide (0xFEA0 ≤ a) && decide (a ≤ 0xFEFF))

/-- INIT_RAM as a store: at each address it fills, the byte the cells give there (R42). -/
def initStore (cells : Memory) : Memory :=
  (cells.filter fun cell => initAddress cell.1).foldr (fun cell m => m.write cell.1 cell.2) []

/-- The store R42 and R260 (2) build, before the TAC byte is masked. -/
def imageStore (args : ResetArgs) : Memory :=
  (Memory.load (initStore args.initRam) 0xA000 (args.eram.getD [])).load 0 args.rom

/-- The image sizes of R74. -/
def ResetArgs.sizesOk (args : ResetArgs) : Bool :=
  args.rom.length == 32768 && (match args.eram with | none => true | some bytes => bytes.length == 8192)

/-- `Reset(ROM, ERAM?)` (R260): images of the wrong size are refused and no block exists; the TAC byte is taken `& 0x07`
and the LY byte must lie in 0 to 153 (R41; log 18); the accumulators are 0 (R43). -/
def construct (args : ResetArgs) : Result :=
  let m := imageStore args
  let io := args.params.io
  if args.sizesOk = false then .refused .imageSize
  else if ¬ (args.params.WF ∧ args.regs.WF ∧ (m.read io.ly.toNat).toNat ≤ 153) then .refused .badParameter
  else .next
    { a := args.regs.a, b := args.regs.b, c := args.regs.c, d := args.regs.d, e := args.regs.e, h := args.regs.h,
      l := args.regs.l, f := args.regs.f, pc := args.regs.pc, sp := args.regs.sp,
      mem := m.write io.tac.toNat (m.read io.tac.toNat &&& 0x07#8), divAcc := 0, timaAcc := 0, lyAcc := 0,
      params := args.params }

end Sys2Proof.Machine
end

