-- ==== Sys2Proof/Safety.lean ====
section
/-! DEFINITION. The invariants the spec states (10_state.md R44, R30) and what a run keeps (20_memory.md R75). -/

namespace Sys2Proof

open Sys2Proof.Machine

/-- The state a fault leaves, which the host may inspect (R207 (4), R208). -/
def Machine.Fault.left : Fault → State
  | .invalidAddress _ left => left
  | .readOnlyViolation _ left => left
  | .invalidValue _ left => left
  | .unsupportedOpcode _ left => left

/-- Bytes 0xE000 to 0xFDFF and 0xFEA0 to 0xFEFF of the store "are never read or written by any rule" (R30): none is listed. -/
abbrev Memory.NoDeadCell (m : Memory) : Prop :=
  ∀ cell ∈ m, ¬ (0xE000 ≤ cell.1 ∧ cell.1 ≤ 0xFDFF) ∧ ¬ (0xFEA0 ≤ cell.1 ∧ cell.1 ≤ 0xFEFF)

/-- The invariants of R44 that speak of one state, with the constraints on the parameters (R31, R275), the canonical form of
the store and R30. -/
structure Inv (s : State) : Prop where
  /-- "`F & 0x0F = 0`" (R23, R44). -/
  flagsLow : s.f &&& 0x0F#8 = 0#8
  /-- "`mem[IO_ADDR.TAC] & 0xF8 = 0`" (R33, R44). -/
  tacHigh : s.peek s.params.io.tac &&& 0xF8#8 = 0#8
  /-- "`mem[IO_ADDR.LY]` is in 0–153" (R35, R44). -/
  lyRange : (s.peek s.params.io.ly).toNat ≤ 153
  /-- "`div_acc` is in 0–255" (R38, R44). -/
  divRange : s.divAcc ≤ 255
  /-- "`ly_acc` is in 0–455" (R38, R44). -/
  lyAccRange : s.lyAcc ≤ 455
  /-- The parameters meet R31 and R275. -/
  params : s.params.WF
  /-- The store is in its canonical form. -/
  memWf : s.mem.wf
  /-- No rule has touched a byte of the echo or the unusable range of the store (R30). -/
  noDead : Memory.NoDeadCell s.mem

/-- "`mem[0x0000..0x7FFF]` equals the ROM image for the whole run" (R75): the two states hold one ROM image. -/
def SameRom (s t : State) : Prop := ∀ a : Word, a.toNat ≤ 0x7FFF → t.peek a = s.peek a

/-- What R39 says is fixed for a run. -/
def SameRun (s t : State) : Prop := t.params = s.params ∧ SameRom s t

end Sys2Proof
end

