-- ==== Sys2Proof/Certificates/Slice0/Obligations.lean ====
section
/-! DEFINITION. The statements for the provers, from the numbered rules of spec/. The helpers of `Claims` write out what a
rule says in the terms of the rule, so that a statement does not lean on the operation it is about. -/

namespace Sys2Proof.Claims

open Sys2Proof.Machine

/-- The four flags of a byte of F, bits 7, 6, 5, 4, and its zero low nibble (R23). -/
def FlagsAre (f : Byte) (z n h c : Prop) : Prop :=
  (f.getLsbD 7 = true ↔ z) ∧ (f.getLsbD 6 = true ↔ n) ∧ (f.getLsbD 5 = true ↔ h) ∧ (f.getLsbD 4 = true ↔ c) ∧
    f &&& 0x0F#8 = 0#8

/-- The bytes the fetch reads at PC (R104, R192) decode to the instruction. -/
def FetchesAs (s : State) (i : Instr) : Prop :=
  ∃ rest, decode [busRead s.pc s, busRead (s.pc + 1#16) s, busRead (s.pc + 2#16) s] = .ok (i, rest)

/-- The 192 unsupported opcode bytes as R110 lists them, the fourteen of R108 among them. -/
def unsupportedByte (n : Nat) : Bool :=
  (decide (n ≤ 0x17)) || (decide (0x19 ≤ n ∧ n ≤ 0x3B)) || (n == 0x3F) ||
  ([0x46, 0x4E, 0x56, 0x5E, 0x66, 0x6E, 0x7E, 0x70, 0x71, 0x72, 0x73, 0x74, 0x75, 0x77].contains n) ||
  (decide (0x80 ≤ n ∧ n ≤ 0xC2)) || (n == 0xC4) || (n == 0xC5) || (n == 0xC7) || (n == 0xC8) ||
  (decide (0xCA ≤ n ∧ n ≤ 0xCC)) || (decide (0xCE ≤ n ∧ n ≤ 0xD5)) || (decide (0xD7 ≤ n ∧ n ≤ 0xDF)) ||
  (decide (0xE1 ≤ n ∧ n ≤ 0xE5)) || (decide (0xE7 ≤ n ∧ n ≤ 0xED)) || (n == 0xEF) ||
  (decide (0xF1 ≤ n ∧ n ≤ 0xF5)) || (decide (0xF7 ≤ n ∧ n ≤ 0xFF))

/-- The type of an operand, without its value (R101). -/
inductive OperandKind where
  | none
  | imm8
  | rel8
  | ioOffset8
  | addr16
  | regs
  deriving DecidableEq, Repr

/-- The type of an operand (R101). -/
def kindOf : Operand → OperandKind
  | .none => .none
  | .imm8 _ => .imm8
  | .rel8 _ => .rel8
  | .ioOffset8 _ => .ioOffset8
  | .addr16 _ => .addr16
  | .regs _ _ => .regs

/-- The length R100 gives each operand type. -/
def lengthOfKind : OperandKind → Nat
  | .none => 1
  | .regs => 1
  | .imm8 => 2
  | .rel8 => 2
  | .ioOffset8 => 2
  | .addr16 => 3

/-- The address a bus address stands for (R63). -/
def target (addr : Word) : Word :=
  if 0xE000 ≤ addr.toNat ∧ addr.toNat ≤ 0xFDFF then addr - 0x2000#16 else addr

/-- The address is in the unusable range (R61). -/
abbrev Unusable (addr : Word) : Prop := 0xFEA0 ≤ addr.toNat ∧ addr.toNat ≤ 0xFEFF

/-- The bytes of the store after a bus write that is not refused (R63, R65, R66): nothing in the unusable range, else
the byte at the address it stands for, 0 at DIV and the low three bits at TAC. -/
def bytesAfter (io : IoAddr) (before : Word → Byte) (addr : Word) (v : Byte) (b : Word) : Byte :=
  if Unusable addr ∨ b ≠ target addr then before b
  else if b = io.div then 0#8
  else if b = io.tac then v &&& 0x07#8
  else v

/-- A push to the address faults (R170, R202): it is in ROM0, in ROMX, or is `IO_ADDR.LY`. -/
abbrev PushFaults (io : IoAddr) (addr : Word) : Prop := addr.toNat < 0x8000 ∨ addr = io.ly

/-- "plain storage addresses: not in the unusable range ..., not at DIV or TAC, and with no fault" (R172). -/
abbrev Plain (io : IoAddr) (addr : Word) : Prop :=
  0x8000 ≤ addr.toNat ∧ ¬ Unusable addr ∧ addr ≠ io.div ∧ addr ≠ io.tac ∧ addr ≠ io.ly

/-- The periods of R221. -/
def periodOf (tac : Byte) : Nat :=
  if tac.toNat % 4 = 0 then 1024 else if tac.toNat % 4 = 1 then 16 else if tac.toNat % 4 = 2 then 64 else 256

/-- One TIMA increment (R222, R223). -/
def timaNext (tma tima : Byte) : Byte := if tima = 0xFF#8 then tma else tima + 1#8

/-- The mnemonics of 40_alu.md, which write A and F (R24, R131). -/
def isAlu (m : Mnemonic) : Prop :=
  m = .add ∨ m = .sub ∨ m = .and ∨ m = .or ∨ m = .xor ∨ m = .incA ∨ m = .decA

/-- The "Written by" column of R24 for the 8-bit registers. -/
def Writes (i : Instr) (r : Reg8) : Prop :=
  (r = .a ∧ (isAlu i.mnemonic ∨ i.mnemonic = .ldAn ∨ i.mnemonic = .ldhLoad)) ∨ (r = .f ∧ isAlu i.mnemonic) ∨
    ∃ src, i.operand = .regs r src

end Sys2Proof.Claims

open Sys2Proof Sys2Proof.Machine Sys2Proof.Claims

/-! ### Encoding and decoding -/

/-- R102, R107, R109: the decoder reads back the instruction an encoder wrote, with every operand at every value, and
leaves the bytes after it. -/
def Obligations.DecodeOfEncodeIsIdentity : Prop :=
  ∀ (i : Instr) (rest : List Byte), decode (encode i ++ rest) = .ok (i, rest)

/-- R107, R109: an instruction has one encoding, so the bytes the decoder took are the ones the encoder writes. -/
def Obligations.EncodeOfDecodeIsIdentity : Prop :=
  ∀ (bytes : List Byte) (i : Instr) (rest : List Byte), decode bytes = .ok (i, rest) → bytes = encode i ++ rest

/-- R110: the step at each of the 192 listed bytes raises UnsupportedOpcode with that byte and changes nothing, and at
no other byte does. -/
def Obligations.UnsupportedBytesFaultAtDecode : Prop :=
  (∀ s : State, unsupportedByte (busRead s.pc s).toNat = true ↔
    step s = .fault (.unsupportedOpcode (.opcode (busRead s.pc s)) s)) ∧
  ((List.range 256).filter unsupportedByte).length = 192

/-- R108: the opcode byte of LD r,r' is `0x40 + 8 * code(dst) + code(src)` with the codes of R103, and there is one for
each pair of the seven registers that have a code. -/
def Obligations.LoadRegisterOpcodeByte : Prop :=
  (∀ (i : Instr) (dst src : Reg8), i.operand = .regs dst src →
    ∃ d r, dst.code = some d ∧ src.code = some r ∧ i.opcode.toNat = 0x40 + 8 * d + r ∧ encode i = [i.opcode]) ∧
  ∀ (dst src : Reg8), dst ≠ .f → src ≠ .f → ∃ i : Instr, i.operand = .regs dst src ∧ i.mnemonic = .ldRR

/-- R107: words written out from the spec's encodings, one at least of each family. -/
def Obligations.SampleWordsDecode : Prop :=
  decode [0x3E#8, 0x12#8] = .ok (.ldAn 0x12#8, []) ∧ decode [0xC6#8, 0x34#8] = .ok (.addAn 0x34#8, []) ∧
  decode [0x76#8] = .ok (.halt, []) ∧ decode [0x41#8] = .ok (.ldBC, []) ∧ decode [0x7F#8] = .ok (.ldAA, []) ∧
  decode [0xC3#8, 0x50#8, 0x01#8] = .ok (.jp 0x0150#16, []) ∧ decode [0x18#8, 0xFE#8] = .ok (.jr 0xFE#8, []) ∧
  decode [0xCD#8, 0x08#8, 0x01#8] = .ok (.call 0x0108#16, []) ∧ decode [0xC9#8] = .ok (.ret, []) ∧
  decode [0xE0#8, 0x07#8] = .ok (.ldhStore 0x07#8, []) ∧ decode [0xF0#8, 0x44#8] = .ok (.ldhLoad 0x44#8, []) ∧
  decode [0x46#8] = .error (.unsupportedOpcode 0x46#8) ∧ decode [0xCB#8, 0x37#8] = .error (.unsupportedOpcode 0xCB#8)

/-- R100 (its length sentence is marked [derived] there): the opcode byte alone determines the mnemonic, the length
and the operand type; the length is that of the operand type; the bytes taken are as many as the length. -/
def Obligations.OpcodeByteDeterminesLength : Prop :=
  ∀ (op : Byte) (more more' : List Byte) (i j : Instr) (rest rest' : List Byte),
    decode (op :: more) = .ok (i, rest) → decode (op :: more') = .ok (j, rest') →
      i.mnemonic = j.mnemonic ∧ i.length = j.length ∧ kindOf i.operand = kindOf j.operand ∧
        i.length = lengthOfKind (kindOf i.operand) ∧ more.length + 1 = i.length + rest.length

/-! ### The step -/

/-- R240: when the bytes at PC decode to an instruction, the step is its execution, then the Timer and the Scanline
Clock fed its cost; a fault of the execution ends the step there. -/
def Obligations.StepRunsDecodedInstruction : Prop :=
  ∀ (s : State) (i : Instr), FetchesAs s i →
    (∀ t, exec i s = .next t →
      step s = .next (scanlineTick (cyclesOf s.params.cost i.mnemonic)
        (timerStep (cyclesOf s.params.cost i.mnemonic) t))) ∧
    ∀ f, exec i s = .fault f → step s = .fault f

/-- R193: the engine step decodes at PC, executes, and returns the cost of the mnemonic. -/
def Obligations.EngineStepReturnsFixedCost : Prop :=
  ∀ (s t : State) (c : Nat), engineStep s = .next (t, c) ↔
    ∃ i, FetchesAs s i ∧ exec i s = .next t ∧ c = cyclesOf s.params.cost i.mnemonic

/-! ### Arithmetic and logic -/

/-- R132, whose opcode byte is the source's own. -/
def Obligations.AddImmediateResult : Prop :=
  ∀ (n : Byte) (s : State), encode (.addAn n) = [0xC6#8, n] ∧ ∃ f : Byte,
    exec (.addAn n) s = .next { s with a := s.a + n, f := f, pc := s.pc + 2#16 } ∧
    FlagsAre f ((s.a.toNat + n.toNat) % 256 = 0) False (0x0F < s.a.toNat % 16 + n.toNat % 16)
      (255 < s.a.toNat + n.toNat)

/-- R133; the opcode byte is the spec's decision D6 (log 8). -/
def Obligations.SubImmediateResult : Prop :=
  ∀ (n : Byte) (s : State), encode (.subAn n) = [0xD6#8, n] ∧ ∃ f : Byte,
    exec (.subAn n) s = .next { s with a := s.a - n, f := f, pc := s.pc + 2#16 } ∧
    FlagsAre f (s.a = n) True (s.a.toNat % 16 < n.toNat % 16) (s.a.toNat < n.toNat)

/-- R134; the opcode byte is the spec's decision D6 (log 8). -/
def Obligations.AndImmediateResult : Prop :=
  ∀ (n : Byte) (s : State), encode (.andAn n) = [0xE6#8, n] ∧ ∃ f : Byte,
    exec (.andAn n) s = .next { s with a := s.a &&& n, f := f, pc := s.pc + 2#16 } ∧
    FlagsAre f (s.a &&& n = 0#8) False True False

/-- R135; the opcode byte is the spec's decision D6 (log 8). -/
def Obligations.OrImmediateResult : Prop :=
  ∀ (n : Byte) (s : State), encode (.orAn n) = [0xF6#8, n] ∧ ∃ f : Byte,
    exec (.orAn n) s = .next { s with a := s.a ||| n, f := f, pc := s.pc + 2#16 } ∧
    FlagsAre f (s.a ||| n = 0#8) False False False

/-- R136; the opcode byte is the spec's decision D6 (log 8). -/
def Obligations.XorImmediateResult : Prop :=
  ∀ (n : Byte) (s : State), encode (.xorAn n) = [0xEE#8, n] ∧ ∃ f : Byte,
    exec (.xorAn n) s = .next { s with a := s.a ^^^ n, f := f, pc := s.pc + 2#16 } ∧
    FlagsAre f (s.a = n) False False False

/-- R137: C keeps its old value; the opcode byte is D6 (log 8). -/
def Obligations.IncrementResult : Prop :=
  ∀ s : State, encode .incA = [0x3C#8] ∧ ∃ f : Byte,
    exec .incA s = .next { s with a := s.a + 1#8, f := f, pc := s.pc + 1#16 } ∧
    FlagsAre f (s.a = 0xFF#8) False (s.a.toNat % 16 = 0x0F) (s.f.getLsbD 4 = true)

/-- R138: C keeps its old value; the opcode byte is D6 (log 8). -/
def Obligations.DecrementResult : Prop :=
  ∀ s : State, encode .decA = [0x3D#8] ∧ ∃ f : Byte,
    exec .decA s = .next { s with a := s.a - 1#8, f := f, pc := s.pc + 1#16 } ∧
    FlagsAre f (s.a = 1#8) True (s.a.toNat % 16 = 0) (s.f.getLsbD 4 = true)

/-! ### Loads -/

/-- R150, for all 49 rows: the destination takes the source's value; F, every other register, the stack pointer, the
store and the accumulators are kept. -/
def Obligations.LoadRegisterResult : Prop :=
  ∀ (i : Instr) (dst src : Reg8) (s : State), i.operand = .regs dst src →
    ∃ t, exec i s = .next t ∧ t.reg8 dst = s.reg8 src ∧ (∀ r, r ≠ dst → t.reg8 r = s.reg8 r) ∧ t.f = s.f ∧
      t.pc = s.pc + 1#16 ∧ t.sp = s.sp ∧ t.mem = s.mem ∧ t.divAcc = s.divAcc ∧ t.timaAcc = s.timaAcc ∧
      t.lyAcc = s.lyAcc ∧ t.params = s.params ∧ (encode i).length = 1

/-- R151, whose opcode byte is the source's own. -/
def Obligations.LoadImmediateResult : Prop :=
  ∀ (n : Byte) (s : State), encode (.ldAn n) = [0x3E#8, n] ∧
    exec (.ldAn n) s = .next { s with a := n, pc := s.pc + 2#16 }

/-- R152: the byte of A goes to `0xFF00 + n`, as 0 with `div_acc` cleared at DIV, as its low three bits at TAC; at LY
the step faults and nothing changes; every other byte and register is kept. -/
def Obligations.LoadHighStoreResult : Prop :=
  ∀ (n : Byte) (s : State), encode (.ldhStore n) = [0xE0#8, n] ∧
    (0xFF00#16 + n.setWidth 16 = s.params.io.ly → s.params.WF →
      exec (.ldhStore n) s = .fault (.readOnlyViolation (0xFF00#16 + n.setWidth 16) s)) ∧
    (0xFF00#16 + n.setWidth 16 ≠ s.params.io.ly → ∃ t, exec (.ldhStore n) s = .next t ∧
      t = { s with
        pc := s.pc + 2#16, mem := t.mem
        divAcc := if 0xFF00#16 + n.setWidth 16 = s.params.io.div then 0 else s.divAcc } ∧
      ∀ b, t.peek b = bytesAfter s.params.io s.peek (0xFF00#16 + n.setWidth 16) s.a b)

/-- R153: A takes the byte stored at `0xFF00 + n`; nothing else changes but PC. -/
def Obligations.LoadHighLoadResult : Prop :=
  ∀ (n : Byte) (s : State), encode (.ldhLoad n) = [0xF0#8, n] ∧
    exec (.ldhLoad n) s = .next { s with a := s.peek (0xFF00#16 + n.setWidth 16), pc := s.pc + 2#16 }

/-! ### Control transfer and the stack -/

/-- R173. -/
def Obligations.JumpResult : Prop :=
  ∀ (nn : Word) (s : State), encode (.jp nn) = [0xC3#8, nn.extractLsb' 0 8, nn.extractLsb' 8 8] ∧
    exec (.jp nn) s = .next { s with pc := nn }

/-- R174: for both values of `JR_BASE`. -/
def Obligations.JumpRelativeResult : Prop :=
  ∀ (e : Byte) (s : State), encode (.jr e) = [0x18#8, e] ∧
    (s.params.jrBase = .literal → exec (.jr e) s = .next { s with pc := s.pc + e.signExtend 16 }) ∧
    (s.params.jrBase = .afterInstruction → exec (.jr e) s = .next { s with pc := s.pc + 2#16 + e.signExtend 16 })

/-- R175: CALL pushes the address after it, high byte first, and jumps; a push that faults leaves SP at the failing
address, the store with the bytes already pushed, and PC unchanged. -/
def Obligations.CallResult : Prop :=
  ∀ (nn : Word) (s : State), s.params.WF →
    encode (.call nn) = [0xCD#8, nn.extractLsb' 0 8, nn.extractLsb' 8 8] ∧
    (PushFaults s.params.io (s.sp - 1#16) →
      exec (.call nn) s = .fault (.readOnlyViolation (s.sp - 1#16) { s with sp := s.sp - 1#16 })) ∧
    (¬ PushFaults s.params.io (s.sp - 1#16) → PushFaults s.params.io (s.sp - 2#16) →
      ∃ left, exec (.call nn) s = .fault (.readOnlyViolation (s.sp - 2#16) left) ∧
        left = { s with
          sp := s.sp - 2#16, mem := left.mem
          divAcc := if s.sp - 1#16 = s.params.io.div then 0 else s.divAcc } ∧
        ∀ b, left.peek b = bytesAfter s.params.io s.peek (s.sp - 1#16) ((s.pc + 3#16).extractLsb' 8 8) b) ∧
    (¬ PushFaults s.params.io (s.sp - 1#16) → ¬ PushFaults s.params.io (s.sp - 2#16) →
      ∃ t, exec (.call nn) s = .next t ∧
        t = { s with
          pc := nn, sp := s.sp - 2#16, mem := t.mem
          divAcc := if s.sp - 1#16 = s.params.io.div ∨ s.sp - 2#16 = s.params.io.div then 0 else s.divAcc } ∧
        ∀ b, t.peek b = bytesAfter s.params.io
          (bytesAfter s.params.io s.peek (s.sp - 1#16) ((s.pc + 3#16).extractLsb' 8 8))
          (s.sp - 2#16) ((s.pc + 3#16).extractLsb' 0 8) b)

/-- R176: PC takes the word whose low byte is read at SP and whose high byte is read above it; memory is unchanged. -/
def Obligations.ReturnResult : Prop :=
  ∀ s : State, encode .ret = [0xC9#8] ∧
    exec .ret s = .next { s with
      pc := BitVec.ofNat 16 ((busRead (s.sp + 1#16) s).toNat * 256 + (busRead s.sp s).toNat), sp := s.sp + 2#16 }

/-- What R172 infers from R170 and R171 (marked [derived] there), and the source's stack property (95_test_vectors.md
S6): at plain addresses a pop undoes a push, and a RET undoes a CALL. -/
def Obligations.PopUndoesPush : Prop :=
  ∀ (s : State), s.params.WF → Plain s.params.io (s.sp - 1#16) → Plain s.params.io (s.sp - 2#16) →
    (∀ v : Word, ∃ t, push16 v s = .next t ∧ (pop16 t).1 = v ∧ (pop16 t).2.sp = s.sp) ∧
    ∀ nn : Word, ∃ t u, exec (.call nn) s = .next t ∧ t.pc = nn ∧ t.sp = s.sp - 2#16 ∧ exec .ret t = .next u ∧
      u.pc = s.pc + 3#16 ∧ u.sp = s.sp

/-- R190 (D22, log 13): HALT changes nothing but PC. -/
def Obligations.HaltIsNoOperation : Prop :=
  ∀ s : State, encode .halt = [0x76#8] ∧ exec .halt s = .next { s with pc := s.pc + 1#16 }

/-! ### Rules over all instructions -/

/-- R26, R194: a non-control-flow instruction advances PC by its length; an instruction that faults leaves PC. -/
def Obligations.PcAdvancesByLength : Prop :=
  ∀ (i : Instr) (s : State),
    (∀ t, exec i s = .next t → i.mnemonic ≠ .jp → i.mnemonic ≠ .jr → i.mnemonic ≠ .call → i.mnemonic ≠ .ret →
      t.pc = s.pc + BitVec.ofNat 16 i.length) ∧
    ∀ f, exec i s = .fault f → f.left.pc = s.pc

/-- R24, R27, R28: an instruction writes no 8-bit register but those of its row, and only CALL and RET move SP. -/
def Obligations.RegistersWrittenAsTabulated : Prop :=
  ∀ (i : Instr) (s t : State), exec i s = .next t →
    (∀ r, ¬ Writes i r → t.reg8 r = s.reg8 r) ∧
    (i.mnemonic = .call → t.sp = s.sp - 2#16) ∧ (i.mnemonic = .ret → t.sp = s.sp + 2#16) ∧
    (i.mnemonic ≠ .call → i.mnemonic ≠ .ret → t.sp = s.sp)

/-- What R81 derives from the instruction rules: the only stores of the subset are the two bytes CALL pushes and the
byte of LDH (n),A; no instruction changes the parameters, `tima_acc` or `ly_acc`. -/
def Obligations.OnlyCallAndLoadHighStore : Prop :=
  ∀ (i : Instr) (s t : State), exec i s = .next t →
    t.params = s.params ∧ t.timaAcc = s.timaAcc ∧ t.lyAcc = s.lyAcc ∧
    (i.mnemonic ≠ .call → i.mnemonic ≠ .ldhStore → t.mem = s.mem ∧ t.divAcc = s.divAcc) ∧
    ∀ b : Word, (∀ n, i = .ldhStore n → b ≠ 0xFF00#16 + n.setWidth 16) →
      (∀ nn, i = .call nn → b ≠ target (s.sp - 1#16) ∧ b ≠ target (s.sp - 2#16)) → t.peek b = s.peek b

/-- "during a run SP differs from its reset value by an even number modulo 65536", which R27 derives from R24. -/
def Obligations.StackPointerKeepsParity : Prop :=
  ∀ (n : Nat) (s t : State), core.run n s = .next t → (t.sp - s.sp).getLsbD 0 = false

/-- The table of R205, which the spec derives from the Faults lines of R132 to R190: LDH (n),A faults only at LY, CALL
only at one of its two writes, no other instruction faults; a step faults at decode or as its instruction does. -/
def Obligations.FaultsPerInstruction : Prop :=
  (∀ (i : Instr) (s : State) (f : Fault), exec i s = .fault f →
    (∃ n, i = .ldhStore n ∧ 0xFF00#16 + n.setWidth 16 = s.params.io.ly ∧
      f = .readOnlyViolation (0xFF00#16 + n.setWidth 16) s) ∨
    ∃ nn addr left, i = .call nn ∧ f = .readOnlyViolation addr left ∧ (addr = s.sp - 1#16 ∨ addr = s.sp - 2#16)) ∧
  ∀ (s : State) (f : Fault), step s = .fault f →
    (unsupportedByte (busRead s.pc s).toNat = true ∧ f = .unsupportedOpcode (.opcode (busRead s.pc s)) s) ∨
    ∃ i, FetchesAs s i ∧ exec i s = .fault f

/-- R8: an instruction, an engine step and a system step complete or fault; there is no third outcome. -/
def Obligations.EveryOperationCompletesOrFaults : Prop :=
  (∀ (i : Instr) (s : State), (∃ t, exec i s = .next t) ∨ ∃ f, exec i s = .fault f) ∧
  (∀ s : State, (∃ t c, engineStep s = .next (t, c)) ∨ ∃ f, engineStep s = .fault f) ∧
  ∀ s : State, (∃ t, step s = .next t) ∨ ∃ f, step s = .fault f

/-- R207: a fault ends the step and the run, the peripherals not advanced; the state left is the state before the step,
but for CALL: SP once decremented, or twice with the high byte stored. -/
def Obligations.FaultLeavesStateUnrolled : Prop :=
  ∀ (s : State) (f : Fault), step s = .fault f →
    (∀ n, core.run (n + 1) s = .fault f) ∧
    (f.left = s ∨ ∃ nn, FetchesAs s (.call nn) ∧
      (f.left = { s with sp := s.sp - 1#16 } ∨
       (f.left = { s with
          sp := s.sp - 2#16, mem := f.left.mem
          divAcc := if target (s.sp - 1#16) = s.params.io.div ∧ ¬ Unusable (s.sp - 1#16) then 0 else s.divAcc } ∧
        ∀ b, f.left.peek b = bytesAfter s.params.io s.peek (s.sp - 1#16) ((s.pc + 3#16).extractLsb' 8 8) b)))

/-! ### The Memory Bus -/

/-- What R62 derives from the table of R61: the twelve regions follow each other from 0x0000 to 0xFFFF without a gap,
so an address has exactly one. -/
def Obligations.RegionTableIsComplete : Prop :=
  regionTable.length = 12 ∧ regionTable.head?.map Region.first = some 0x0000 ∧
  regionTable.getLast?.map Region.last = some 0xFFFF ∧
  (regionTable.zip regionTable.tail).all (fun p => p.2.first == p.1.last + 1) = true ∧
  ∀ a : Word, ∃ r ∈ regionTable, regionOf a.toNat = some r ∧ r.first ≤ a.toNat ∧ a.toNat ≤ r.last ∧
    ∀ q ∈ regionTable, q.first ≤ a.toNat → a.toNat ≤ q.last → q = r

/-- R64: a bus read gives 0xFF in the unusable range, else the byte stored at the address that stands for it. -/
def Obligations.BusReadGivesStoredByte : Prop :=
  ∀ (addr : Word) (s : State),
    (Unusable addr → busRead addr s = 0xFF#8) ∧ (¬ Unusable addr → busRead addr s = s.peek (target addr))

/-- R83, its three laws, with the exceptions of DIV, TAC and LY: round trip, ROM immutability, echo equivalence. -/
def Obligations.BusLaws : Prop :=
  ∀ (addr : Word) (v : Byte) (s : State), s.params.WF →
    (0x8000 ≤ addr.toNat → ¬ Unusable addr → addr ≠ s.params.io.div → addr ≠ s.params.io.tac →
      addr ≠ s.params.io.ly → ∃ t, busWrite addr v s = .next t ∧ busRead addr t = v) ∧
    (addr = s.params.io.div → ∃ t, busWrite addr v s = .next t ∧ busRead addr t = 0#8 ∧ t.divAcc = 0) ∧
    (addr = s.params.io.tac → ∃ t, busWrite addr v s = .next t ∧ busRead addr t = v &&& 0x07#8) ∧
    (addr = s.params.io.ly → busWrite addr v s = .fault (.readOnlyViolation addr s)) ∧
    (addr.toNat < 0x8000 → busWrite addr v s = .fault (.readOnlyViolation addr s)) ∧
    (0xE000 ≤ addr.toNat → addr.toNat ≤ 0xFDFF →
      (∃ t, busWrite addr v s = .next t ∧ busRead (addr - 0x2000#16) t = v) ∧
      ∃ t, busWrite (addr - 0x2000#16) v s = .next t ∧ busRead addr t = v)

/-- R65, R66, R72: a bus write that is not refused changes the byte it stands for and, at DIV, `div_acc`, and nothing
else; in the unusable range it changes nothing. -/
def Obligations.BusWriteChangesOneByte : Prop :=
  ∀ (addr : Word) (v : Byte) (s t : State), busWrite addr v s = .next t →
    (Unusable addr → t = s) ∧ (∀ b, t.peek b = bytesAfter s.params.io s.peek addr v b) ∧
    (∀ r, t.reg8 r = s.reg8 r) ∧ t.pc = s.pc ∧ t.sp = s.sp ∧ t.timaAcc = s.timaAcc ∧ t.lyAcc = s.lyAcc ∧
    t.params = s.params ∧ (target addr ≠ s.params.io.div → t.divAcc = s.divAcc)

/-! ### The host port -/

/-- R203: a value outside 0 to 255 raises InvalidValue before any other test; no step raises it. -/
def Obligations.InvalidValueOnlyAtHostPort : Prop :=
  (∀ (addr value : Int) (s : State), value < 0 ∨ 255 < value →
    hostWrite addr value s = .fault (.invalidValue value s)) ∧
  ∀ (s left : State) (value : Int), step s ≠ .fault (.invalidValue value left)

/-- R201: an address outside 0 to 65535 raises InvalidAddress at the host port; no step raises it. -/
def Obligations.InvalidAddressOnlyAtHostPort : Prop :=
  (∀ (addr : Int) (s : State), addr < 0 ∨ 65535 < addr →
    hostRead addr s = .fault (.invalidAddress addr s) ∧
    ∀ value : Int, 0 ≤ value → value ≤ 255 → hostWrite addr value s = .fault (.invalidAddress addr s)) ∧
  ∀ (s left : State) (addr : Int), step s ≠ .fault (.invalidAddress addr left)

/-- R84: inside its ranges the host port is the engine's bus: the same reads and the same writes, with their effects. -/
def Obligations.HostPortIsTheBus : Prop :=
  ∀ (addr : Word) (v : Byte) (s : State),
    hostRead addr.toNat s = .next (busRead addr s) ∧ hostWrite addr.toNat v.toNat s = busWrite addr v s

/-- R246: `SetReg` stores `v mod 256`, `v & 0xF0` for F, `v mod 65536` for PC and SP, and changes nothing else: no other
register, no byte of the store, no accumulator, no parameter. -/
def Obligations.SetRegMasks : Prop :=
  ∀ (v : Int) (s : State),
    (∀ r, (r ≠ .f → ((setReg (.reg8 r) v s).reg8 r).toNat = v % 256) ∧
      (∀ q, q ≠ r → (setReg (.reg8 r) v s).reg8 q = s.reg8 q) ∧
      (setReg (.reg8 r) v s).pc = s.pc ∧ (setReg (.reg8 r) v s).sp = s.sp ∧ (setReg (.reg8 r) v s).mem = s.mem ∧
      (setReg (.reg8 r) v s).divAcc = s.divAcc ∧ (setReg (.reg8 r) v s).timaAcc = s.timaAcc ∧
      (setReg (.reg8 r) v s).lyAcc = s.lyAcc ∧ (setReg (.reg8 r) v s).params = s.params) ∧
    ((setReg (.reg8 .f) v s).f.toNat = v % 256 / 16 * 16) ∧
    ((setReg .pc v s).pc.toNat = v % 65536 ∧ setReg .pc v s = { s with pc := (setReg .pc v s).pc }) ∧
    ((setReg .sp v s).sp.toNat = v % 65536 ∧ setReg .sp v s = { s with sp := (setReg .sp v s).sp })

/-- R195, R204: direct execution of the record decode would build does what the fetched instruction does and returns its
cost; a mnemonic outside the sixteen raises UnsupportedOpcode; the record's own length is the one used, for the PC advance
and for the return address a CALL pushes. -/
def Obligations.DirectExecutionAgrees : Prop :=
  (∀ (i : Instr) (s : State),
    (∀ t, exec i s = .next t → directExecute i.record s = .next (t, cyclesOf s.params.cost i.mnemonic)) ∧
    ∀ f, exec i s = .fault f → directExecute i.record s = .fault f) ∧
  (∀ (name : String) (k : Nat) (o : Operand) (s : State),
    directExecute { mnemonic := .other name, length := k, operand := o } s
      = .fault (.unsupportedOpcode (.mnemonic name) s)) ∧
  (∀ (m : Mnemonic) (k : Nat) (o : Operand) (s t : State) (c : Nat), m ≠ .jp → m ≠ .jr → m ≠ .call → m ≠ .ret →
    directExecute { mnemonic := .known m, length := k, operand := o } s = .next (t, c) →
      t.pc = s.pc + BitVec.ofNat 16 k) ∧
  ∀ (k : Nat) (nn : Word) (s : State), s.params.WF → ¬ PushFaults s.params.io (s.sp - 1#16) →
    (PushFaults s.params.io (s.sp - 2#16) →
      ∃ left, directExecute { mnemonic := .known .call, length := k, operand := .addr16 nn } s
          = .fault (.readOnlyViolation (s.sp - 2#16) left) ∧
        ∀ b, left.peek b = bytesAfter s.params.io s.peek (s.sp - 1#16)
          ((s.pc + BitVec.ofNat 16 k).extractLsb' 8 8) b) ∧
    (¬ PushFaults s.params.io (s.sp - 2#16) →
      ∃ t, directExecute { mnemonic := .known .call, length := k, operand := .addr16 nn } s
          = .next (t, s.params.cost.call) ∧
        t.pc = nn ∧ t.sp = s.sp - 2#16 ∧
        ∀ b, t.peek b = bytesAfter s.params.io
          (bytesAfter s.params.io s.peek (s.sp - 1#16) ((s.pc + BitVec.ofNat 16 k).extractLsb' 8 8))
          (s.sp - 2#16) ((s.pc + BitVec.ofNat 16 k).extractLsb' 0 8) b)

/-! ### The Timer -/

/-- R221, R222, R224, R225 (a): what `TimerStep` leaves, in closed form: nothing changed at a count of 0; at any other,
DIV and `div_acc` always, TIMA and `tima_acc` only while TAC bit 2 is set, each increment of TIMA reloading from TMA past
255 (the reading D15, log 11), and nothing else changed. That R225 (a) holds with `tima_acc` at or above the period too,
where R222's loop would turn, is the model's choice (log 20). -/
def Obligations.TimerStepClosedForm : Prop :=
  ∀ (c : Nat) (s : State), s.params.WF →
    (c = 0 → timerStep c s = s) ∧
    (0 < c →
      (timerStep c s).peek s.params.io.div
        = s.peek s.params.io.div + BitVec.ofNat 8 ((s.divAcc + c) / 256) ∧
      timerStep c s = { s with
        mem := (timerStep c s).mem, divAcc := (s.divAcc + c) % 256
        timaAcc := if (s.peek s.params.io.tac).getLsbD 2 = true then
          (s.timaAcc + c) % periodOf (s.peek s.params.io.tac) else s.timaAcc } ∧
      (timerStep c s).peek s.params.io.tima
        = (if (s.peek s.params.io.tac).getLsbD 2 = true then
            (timaNext (s.peek s.params.io.tma))^[(s.timaAcc + c) / periodOf (s.peek s.params.io.tac)]
              (s.peek s.params.io.tima)
           else s.peek s.params.io.tima) ∧
      ∀ b, b ≠ s.params.io.div → b ≠ s.params.io.tima → (timerStep c s).peek b = s.peek b)

/-- The source's Timer property with the range R226 derives for it from R222: with TAC = 0x05, `step(16)` increases
TIMA by exactly 1 from every `tima_acc` in 0 to 15, and with TIMA = 0xFF loads TMA. -/
def Obligations.TimerUnitProperty : Prop :=
  ∀ s : State, s.params.WF → s.peek s.params.io.tac = 0x05#8 → s.timaAcc ≤ 15 →
    (timerStep 16 s).timaAcc = s.timaAcc ∧
    (s.peek s.params.io.tima ≠ 0xFF#8 →
      (timerStep 16 s).peek s.params.io.tima = s.peek s.params.io.tima + 1#8) ∧
    (s.peek s.params.io.tima = 0xFF#8 → (timerStep 16 s).peek s.params.io.tima = s.peek s.params.io.tma)

/-- The spec's reading of R223 (D15, log 11): the overflow test is made after each increment: from TIMA = 0xFF one
increment gives TMA, two give TMA + 1, or TMA again when TMA is 0xFF. (A count of 0 changes nothing:
TimerStepClosedForm.) -/
def Obligations.TimaReloadsPerIncrement : Prop :=
  ∀ (c : Nat) (s : State), 0 < c → s.params.WF → (s.peek s.params.io.tac).getLsbD 2 = true →
    s.peek s.params.io.tima = 0xFF#8 →
    ((s.timaAcc + c) / periodOf (s.peek s.params.io.tac) = 1 →
      (timerStep c s).peek s.params.io.tima = s.peek s.params.io.tma) ∧
    ((s.timaAcc + c) / periodOf (s.peek s.params.io.tac) = 2 → s.peek s.params.io.tma ≠ 0xFF#8 →
      (timerStep c s).peek s.params.io.tima = s.peek s.params.io.tma + 1#8) ∧
    ((s.timaAcc + c) / periodOf (s.peek s.params.io.tac) = 2 → s.peek s.params.io.tma = 0xFF#8 →
      (timerStep c s).peek s.params.io.tima = 0xFF#8)

/-- What follows from the loops of R222 and from R225 (a): the Timer's state after some cycles does not depend on how
they are split over its steps, steps of 0 cycles among them (log 20). -/
def Obligations.TimerStepsAdd : Prop :=
  ∀ (c d : Nat) (s : State), s.params.WF → s.mem.wf → timerStep d (timerStep c s) = timerStep (c + d) s

/-! ### The Scanline Clock -/

/-- R232, R233: what `ScanlineTick` leaves, in closed form, with the LCD on and off. -/
def Obligations.ScanlineTickClosedForm : Prop :=
  ∀ (c : Nat) (s : State), (s.peek s.params.io.ly).toNat ≤ 153 →
    ((s.peek s.params.io.lcdc).getLsbD 7 = true →
      ((scanlineTick c s).peek s.params.io.ly).toNat
        = ((s.peek s.params.io.ly).toNat + (s.lyAcc + c) / 456) % 154 ∧
      scanlineTick c s = { s with mem := (scanlineTick c s).mem, lyAcc := (s.lyAcc + c) % 456 }) ∧
    ((s.peek s.params.io.lcdc).getLsbD 7 = false →
      (scanlineTick c s).peek s.params.io.ly = 0#8 ∧
      scanlineTick c s = { s with mem := (scanlineTick c s).mem, lyAcc := 0 }) ∧
    ∀ b, b ≠ s.params.io.ly → (scanlineTick c s).peek b = s.peek b

/-- What R234 derives from R232: from LY = 0 and `ly_acc = 0` with the LCD on, after ticks totalling `k` cycles LY is
`floor(k / 456) mod 154` and `ly_acc` is `k mod 456`, however the cycles are split over ticks. -/
def Obligations.ScanlineTicksTotal : Prop :=
  ∀ (ticks : List Nat) (s : State), s.params.WF → (s.peek s.params.io.lcdc).getLsbD 7 = true →
    s.peek s.params.io.ly = 0#8 → s.lyAcc = 0 →
    ((ticks.foldl (fun t c => scanlineTick c t) s).peek s.params.io.ly).toNat = ticks.sum / 456 % 154 ∧
    (ticks.foldl (fun t c => scanlineTick c t) s).lyAcc = ticks.sum % 456

/-! ### The two peripherals -/

/-- What R241 (3) derives from R222 and R232: the Timer and the Scanline Clock share no state, so their relative order
cannot be observed. -/
def Obligations.PeripheralsCommute : Prop :=
  ∀ (c d : Nat) (s : State), s.params.WF → s.mem.wf →
    timerStep c (scanlineTick d s) = scanlineTick d (timerStep c s)

/-- R67: the Timer writes DIV and TIMA and its accumulators, the Scanline Clock LY and its own; no other byte, no
register and no parameter, for every value of the parameters. -/
def Obligations.PeripheralsTouchOnlyTheirOwn : Prop :=
  ∀ (c : Nat) (s : State),
    (∀ b, b ≠ s.params.io.div → b ≠ s.params.io.tima → (timerStep c s).peek b = s.peek b) ∧
    (∀ b, b ≠ s.params.io.ly → (scanlineTick c s).peek b = s.peek b) ∧
    (∀ r, (timerStep c s).reg8 r = s.reg8 r ∧ (scanlineTick c s).reg8 r = s.reg8 r) ∧
    (timerStep c s).pc = s.pc ∧ (scanlineTick c s).pc = s.pc ∧ (timerStep c s).sp = s.sp ∧
    (scanlineTick c s).sp = s.sp ∧ (timerStep c s).lyAcc = s.lyAcc ∧ (scanlineTick c s).divAcc = s.divAcc ∧
    (scanlineTick c s).timaAcc = s.timaAcc ∧ (timerStep c s).params = s.params ∧ (scanlineTick c s).params = s.params

/-! ### Reset -/

/-- The reset state: the accumulators 0 (R43) and, the model's choice where the spec leaves RESET and INIT_RAM open
(log 1, 2, 3), the presets the spec calls its defaults: every register 0x00 or 0x0000 and every byte of the store
0x00. -/
def Obligations.ResetTakesTheDefaults : Prop :=
  State.reset.divAcc = 0 ∧ State.reset.timaAcc = 0 ∧ State.reset.lyAcc = 0 ∧ State.reset.pc = 0#16 ∧
  State.reset.sp = 0#16 ∧ (∀ r, State.reset.reg8 r = 0#8) ∧ ∀ a, State.reset.peek a = 0#8

/-- R260, R74, R42, R41: an image of the wrong size is refused. Reset answers exactly for images of the right size,
parameters and registers that meet R31, R275 and R40, and an LY byte of at most 153 (that other values are refused is the
model's reading, log 18). Then the store holds the ROM image from 0x0000, the external RAM image from 0xA000 and INIT_RAM at
every other address, the TAC byte masked; the echo and unusable ranges of the store are left out, where the model drops what
INIT_RAM names (log 19). The registers are RESET, the accumulators 0, and the invariants of R44, which are an inference of
the spec and hold the store's form of log 19, hold from the start. -/
def Obligations.ResetBuildsTheBlock : Prop :=
  ∀ args : ResetArgs,
    (args.rom.length ≠ 32768 → construct args = .refused .imageSize) ∧
    (∀ bytes, args.eram = some bytes → bytes.length ≠ 8192 → construct args = .refused .imageSize) ∧
    ((∃ s, construct args = .next s) ↔
      args.rom.length = 32768 ∧ (∀ bytes, args.eram = some bytes → bytes.length = 8192) ∧ args.params.WF ∧
        args.regs.WF ∧ (args.initRam.read args.params.io.ly.toNat).toNat ≤ 153) ∧
    ∀ s, construct args = .next s →
      (∀ k, k < 32768 → s.peek (BitVec.ofNat 16 k) = args.rom.getD k 0#8) ∧
      (∀ bytes k, args.eram = some bytes → k < 8192 → s.peek (BitVec.ofNat 16 (0xA000 + k)) = bytes.getD k 0#8) ∧
      (∀ a : Word, 0x8000 ≤ a.toNat → (args.eram ≠ none → ¬ (0xA000 ≤ a.toNat ∧ a.toNat ≤ 0xBFFF)) →
        ¬ (0xE000 ≤ a.toNat ∧ a.toNat ≤ 0xFDFF) → ¬ Unusable a → a ≠ args.params.io.tac →
          s.peek a = args.initRam.read a.toNat) ∧
      s.peek args.params.io.tac = args.initRam.read args.params.io.tac.toNat &&& 0x07#8 ∧
      s.a = args.regs.a ∧ s.f = args.regs.f ∧ s.b = args.regs.b ∧ s.c = args.regs.c ∧ s.d = args.regs.d ∧
      s.e = args.regs.e ∧ s.h = args.regs.h ∧ s.l = args.regs.l ∧ s.sp = args.regs.sp ∧ s.pc = args.regs.pc ∧
      s.divAcc = 0 ∧ s.timaAcc = 0 ∧ s.lyAcc = 0 ∧ s.params = args.params ∧ Inv s

/-- R40 to R43: `State.reset` is what reset builds from a ROM image of zeros with every OPEN parameter at its default
(the model's choice of a ROM with no program, log 3). -/
def Obligations.ResetIsTheDefaultConstruction : Prop :=
  construct { rom := List.replicate 32768 0#8, eram := none, initRam := [], regs := resetZero, params := defaultParams }
    = .next State.reset

/-! ### Invariants -/

/-- What R44 derives: the invariants hold after reset, here the reset state of the model's choice (log 1, 2, 3, 5, 6,
7). -/
def Obligations.ResetMeetsInvariant : Prop := Inv State.reset

/-- What R44 derives from R21, R22, R23, R33, R35, R38 and R75: every completed system step keeps the invariants, from
every state that meets them. -/
def Obligations.StepKeepsInvariant : Prop := ∀ s t : State, Inv s → step s = .next t → Inv t

/-- What R44 derives: so does every other completed operation of R242 that changes the state: a bus write, SetReg, the
engine step, each peripheral alone, direct execution. (The system step is StepKeepsInvariant, reset ResetBuildsTheBlock.) -/
def Obligations.HostOperationsKeepInvariant : Prop :=
  ∀ s : State, Inv s →
    (∀ addr value t, hostWrite addr value s = .next t → Inv t) ∧ (∀ r v, Inv (setReg r v s)) ∧
    (∀ t c, engineStep s = .next (t, c) → Inv t) ∧ (∀ c, Inv (timerStep c s)) ∧ (∀ c, Inv (scanlineTick c s)) ∧
    ∀ r t c, directExecute r s = .next (t, c) → Inv t

/-- R75, R39: no step changes a byte of the ROM image or a parameter, from every state whose parameters meet R31. -/
def Obligations.StepKeepsRomAndParameters : Prop :=
  ∀ s t : State, s.params.WF → step s = .next t → SameRun s t

/-- R44, R75: over a run of any length from a state that meets the invariants, they hold at the end and the ROM image
is the one of the start. -/
def Obligations.RunKeepsInvariantAndRom : Prop :=
  ∀ (n : Nat) (s t : State), Inv s → core.run n s = .next t → Inv t ∧ SameRun s t

/-! ### What cannot be observed -/

/-- What R29 derives from the mnemonic list of R107: no instruction tests a flag: two states that differ in F alone go
to states that differ in F alone. -/
def Obligations.FlagsDecideNothing : Prop :=
  ∀ (i : Instr) (s t : State) (g : Byte), exec i s = .next t →
    ∃ f, exec i { s with f := g } = .next { t with f := f }

/-- R275: no instruction's own effect depends on CYCLE_COST. -/
def Obligations.EffectsIgnoreCycleCost : Prop :=
  ∀ (i : Instr) (s t : State) (cost : CycleCost), exec i s = .next t →
    exec i { s with params := { s.params with cost := cost } }
      = .next { t with params := { t.params with cost := cost } }

/-- R67, R81: in a system step the only bytes of the store that change are DIV, TIMA, LY and the bytes the instruction
stores to. -/
def Obligations.StepChangesNoOtherByte : Prop :=
  ∀ (s t : State) (i : Instr), FetchesAs s i → step s = .next t →
    ∀ b : Word, b ≠ s.params.io.div → b ≠ s.params.io.tima → b ≠ s.params.io.ly →
      (∀ n, i = .ldhStore n → b ≠ 0xFF00#16 + n.setWidth 16) →
      (∀ nn, i = .call nn → b ≠ target (s.sp - 1#16) ∧ b ≠ target (s.sp - 2#16)) → t.peek b = s.peek b
end

