-- ==== Sys2Proof/Laws/State.lean ====
section
/-! SUPPORT. One lemma per field per update of the state, so that no later proof unfolds a record update. -/

namespace Sys2Proof.Machine

@[simp] theorem State.poke_a (s : State) (a : Word) (v : Byte) : (s.poke a v).a = s.a := rfl
@[simp] theorem State.poke_b (s : State) (a : Word) (v : Byte) : (s.poke a v).b = s.b := rfl
@[simp] theorem State.poke_c (s : State) (a : Word) (v : Byte) : (s.poke a v).c = s.c := rfl
@[simp] theorem State.poke_d (s : State) (a : Word) (v : Byte) : (s.poke a v).d = s.d := rfl
@[simp] theorem State.poke_e (s : State) (a : Word) (v : Byte) : (s.poke a v).e = s.e := rfl
@[simp] theorem State.poke_h (s : State) (a : Word) (v : Byte) : (s.poke a v).h = s.h := rfl
@[simp] theorem State.poke_l (s : State) (a : Word) (v : Byte) : (s.poke a v).l = s.l := rfl
@[simp] theorem State.poke_f (s : State) (a : Word) (v : Byte) : (s.poke a v).f = s.f := rfl
@[simp] theorem State.poke_pc (s : State) (a : Word) (v : Byte) : (s.poke a v).pc = s.pc := rfl
@[simp] theorem State.poke_sp (s : State) (a : Word) (v : Byte) : (s.poke a v).sp = s.sp := rfl
@[simp] theorem State.poke_mem (s : State) (a : Word) (v : Byte) : (s.poke a v).mem = s.mem.write a.toNat v := rfl
@[simp] theorem State.poke_divAcc (s : State) (a : Word) (v : Byte) : (s.poke a v).divAcc = s.divAcc := rfl
@[simp] theorem State.poke_timaAcc (s : State) (a : Word) (v : Byte) : (s.poke a v).timaAcc = s.timaAcc := rfl
@[simp] theorem State.poke_lyAcc (s : State) (a : Word) (v : Byte) : (s.poke a v).lyAcc = s.lyAcc := rfl
@[simp] theorem State.poke_params (s : State) (a : Word) (v : Byte) : (s.poke a v).params = s.params := rfl
@[simp] theorem State.poke_reg8 (s : State) (a : Word) (v : Byte) (r : Reg8) : (s.poke a v).reg8 r = s.reg8 r := by
  cases r <;> rfl

@[simp] theorem State.setPc_a (s : State) (v : Word) : (s.setPc v).a = s.a := rfl
@[simp] theorem State.setPc_b (s : State) (v : Word) : (s.setPc v).b = s.b := rfl
@[simp] theorem State.setPc_c (s : State) (v : Word) : (s.setPc v).c = s.c := rfl
@[simp] theorem State.setPc_d (s : State) (v : Word) : (s.setPc v).d = s.d := rfl
@[simp] theorem State.setPc_e (s : State) (v : Word) : (s.setPc v).e = s.e := rfl
@[simp] theorem State.setPc_h (s : State) (v : Word) : (s.setPc v).h = s.h := rfl
@[simp] theorem State.setPc_l (s : State) (v : Word) : (s.setPc v).l = s.l := rfl
@[simp] theorem State.setPc_f (s : State) (v : Word) : (s.setPc v).f = s.f := rfl
@[simp] theorem State.setPc_pc (s : State) (v : Word) : (s.setPc v).pc = v := rfl
@[simp] theorem State.setPc_sp (s : State) (v : Word) : (s.setPc v).sp = s.sp := rfl
@[simp] theorem State.setPc_mem (s : State) (v : Word) : (s.setPc v).mem = s.mem := rfl
@[simp] theorem State.setPc_divAcc (s : State) (v : Word) : (s.setPc v).divAcc = s.divAcc := rfl
@[simp] theorem State.setPc_timaAcc (s : State) (v : Word) : (s.setPc v).timaAcc = s.timaAcc := rfl
@[simp] theorem State.setPc_lyAcc (s : State) (v : Word) : (s.setPc v).lyAcc = s.lyAcc := rfl
@[simp] theorem State.setPc_params (s : State) (v : Word) : (s.setPc v).params = s.params := rfl
@[simp] theorem State.setPc_reg8 (s : State) (v : Word) (r : Reg8) : (s.setPc v).reg8 r = s.reg8 r := by
  cases r <;> rfl
@[simp] theorem State.setPc_peek (s : State) (v : Word) (x : Word) : (s.setPc v).peek x = s.peek x := rfl

@[simp] theorem State.setSp_a (s : State) (v : Word) : (s.setSp v).a = s.a := rfl
@[simp] theorem State.setSp_b (s : State) (v : Word) : (s.setSp v).b = s.b := rfl
@[simp] theorem State.setSp_c (s : State) (v : Word) : (s.setSp v).c = s.c := rfl
@[simp] theorem State.setSp_d (s : State) (v : Word) : (s.setSp v).d = s.d := rfl
@[simp] theorem State.setSp_e (s : State) (v : Word) : (s.setSp v).e = s.e := rfl
@[simp] theorem State.setSp_h (s : State) (v : Word) : (s.setSp v).h = s.h := rfl
@[simp] theorem State.setSp_l (s : State) (v : Word) : (s.setSp v).l = s.l := rfl
@[simp] theorem State.setSp_f (s : State) (v : Word) : (s.setSp v).f = s.f := rfl
@[simp] theorem State.setSp_pc (s : State) (v : Word) : (s.setSp v).pc = s.pc := rfl
@[simp] theorem State.setSp_sp (s : State) (v : Word) : (s.setSp v).sp = v := rfl
@[simp] theorem State.setSp_mem (s : State) (v : Word) : (s.setSp v).mem = s.mem := rfl
@[simp] theorem State.setSp_divAcc (s : State) (v : Word) : (s.setSp v).divAcc = s.divAcc := rfl
@[simp] theorem State.setSp_timaAcc (s : State) (v : Word) : (s.setSp v).timaAcc = s.timaAcc := rfl
@[simp] theorem State.setSp_lyAcc (s : State) (v : Word) : (s.setSp v).lyAcc = s.lyAcc := rfl
@[simp] theorem State.setSp_params (s : State) (v : Word) : (s.setSp v).params = s.params := rfl
@[simp] theorem State.setSp_reg8 (s : State) (v : Word) (r : Reg8) : (s.setSp v).reg8 r = s.reg8 r := by
  cases r <;> rfl
@[simp] theorem State.setSp_peek (s : State) (v : Word) (x : Word) : (s.setSp v).peek x = s.peek x := rfl

@[simp] theorem State.advance_a (s : State) (n : Nat) : (s.advance n).a = s.a := rfl
@[simp] theorem State.advance_b (s : State) (n : Nat) : (s.advance n).b = s.b := rfl
@[simp] theorem State.advance_c (s : State) (n : Nat) : (s.advance n).c = s.c := rfl
@[simp] theorem State.advance_d (s : State) (n : Nat) : (s.advance n).d = s.d := rfl
@[simp] theorem State.advance_e (s : State) (n : Nat) : (s.advance n).e = s.e := rfl
@[simp] theorem State.advance_h (s : State) (n : Nat) : (s.advance n).h = s.h := rfl
@[simp] theorem State.advance_l (s : State) (n : Nat) : (s.advance n).l = s.l := rfl
@[simp] theorem State.advance_f (s : State) (n : Nat) : (s.advance n).f = s.f := rfl
@[simp] theorem State.advance_pc (s : State) (n : Nat) : (s.advance n).pc = BitVec.ofNat 16 (s.pc.toNat + n) := rfl
@[simp] theorem State.advance_sp (s : State) (n : Nat) : (s.advance n).sp = s.sp := rfl
@[simp] theorem State.advance_mem (s : State) (n : Nat) : (s.advance n).mem = s.mem := rfl
@[simp] theorem State.advance_divAcc (s : State) (n : Nat) : (s.advance n).divAcc = s.divAcc := rfl
@[simp] theorem State.advance_timaAcc (s : State) (n : Nat) : (s.advance n).timaAcc = s.timaAcc := rfl
@[simp] theorem State.advance_lyAcc (s : State) (n : Nat) : (s.advance n).lyAcc = s.lyAcc := rfl
@[simp] theorem State.advance_params (s : State) (n : Nat) : (s.advance n).params = s.params := rfl
@[simp] theorem State.advance_reg8 (s : State) (n : Nat) (r : Reg8) : (s.advance n).reg8 r = s.reg8 r := by
  cases r <;> rfl
@[simp] theorem State.advance_peek (s : State) (n : Nat) (x : Word) : (s.advance n).peek x = s.peek x := rfl

@[simp] theorem State.setDivAcc_a (s : State) (n : Nat) : (s.setDivAcc n).a = s.a := rfl
@[simp] theorem State.setDivAcc_b (s : State) (n : Nat) : (s.setDivAcc n).b = s.b := rfl
@[simp] theorem State.setDivAcc_c (s : State) (n : Nat) : (s.setDivAcc n).c = s.c := rfl
@[simp] theorem State.setDivAcc_d (s : State) (n : Nat) : (s.setDivAcc n).d = s.d := rfl
@[simp] theorem State.setDivAcc_e (s : State) (n : Nat) : (s.setDivAcc n).e = s.e := rfl
@[simp] theorem State.setDivAcc_h (s : State) (n : Nat) : (s.setDivAcc n).h = s.h := rfl
@[simp] theorem State.setDivAcc_l (s : State) (n : Nat) : (s.setDivAcc n).l = s.l := rfl
@[simp] theorem State.setDivAcc_f (s : State) (n : Nat) : (s.setDivAcc n).f = s.f := rfl
@[simp] theorem State.setDivAcc_pc (s : State) (n : Nat) : (s.setDivAcc n).pc = s.pc := rfl
@[simp] theorem State.setDivAcc_sp (s : State) (n : Nat) : (s.setDivAcc n).sp = s.sp := rfl
@[simp] theorem State.setDivAcc_mem (s : State) (n : Nat) : (s.setDivAcc n).mem = s.mem := rfl
@[simp] theorem State.setDivAcc_divAcc (s : State) (n : Nat) : (s.setDivAcc n).divAcc = n := rfl
@[simp] theorem State.setDivAcc_timaAcc (s : State) (n : Nat) : (s.setDivAcc n).timaAcc = s.timaAcc := rfl
@[simp] theorem State.setDivAcc_lyAcc (s : State) (n : Nat) : (s.setDivAcc n).lyAcc = s.lyAcc := rfl
@[simp] theorem State.setDivAcc_params (s : State) (n : Nat) : (s.setDivAcc n).params = s.params := rfl
@[simp] theorem State.setDivAcc_reg8 (s : State) (n : Nat) (r : Reg8) : (s.setDivAcc n).reg8 r = s.reg8 r := by
  cases r <;> rfl
@[simp] theorem State.setDivAcc_peek (s : State) (n : Nat) (x : Word) : (s.setDivAcc n).peek x = s.peek x := rfl

@[simp] theorem State.setTimaAcc_a (s : State) (n : Nat) : (s.setTimaAcc n).a = s.a := rfl
@[simp] theorem State.setTimaAcc_b (s : State) (n : Nat) : (s.setTimaAcc n).b = s.b := rfl
@[simp] theorem State.setTimaAcc_c (s : State) (n : Nat) : (s.setTimaAcc n).c = s.c := rfl
@[simp] theorem State.setTimaAcc_d (s : State) (n : Nat) : (s.setTimaAcc n).d = s.d := rfl
@[simp] theorem State.setTimaAcc_e (s : State) (n : Nat) : (s.setTimaAcc n).e = s.e := rfl
@[simp] theorem State.setTimaAcc_h (s : State) (n : Nat) : (s.setTimaAcc n).h = s.h := rfl
@[simp] theorem State.setTimaAcc_l (s : State) (n : Nat) : (s.setTimaAcc n).l = s.l := rfl
@[simp] theorem State.setTimaAcc_f (s : State) (n : Nat) : (s.setTimaAcc n).f = s.f := rfl
@[simp] theorem State.setTimaAcc_pc (s : State) (n : Nat) : (s.setTimaAcc n).pc = s.pc := rfl
@[simp] theorem State.setTimaAcc_sp (s : State) (n : Nat) : (s.setTimaAcc n).sp = s.sp := rfl
@[simp] theorem State.setTimaAcc_mem (s : State) (n : Nat) : (s.setTimaAcc n).mem = s.mem := rfl
@[simp] theorem State.setTimaAcc_divAcc (s : State) (n : Nat) : (s.setTimaAcc n).divAcc = s.divAcc := rfl
@[simp] theorem State.setTimaAcc_timaAcc (s : State) (n : Nat) : (s.setTimaAcc n).timaAcc = n := rfl
@[simp] theorem State.setTimaAcc_lyAcc (s : State) (n : Nat) : (s.setTimaAcc n).lyAcc = s.lyAcc := rfl
@[simp] theorem State.setTimaAcc_params (s : State) (n : Nat) : (s.setTimaAcc n).params = s.params := rfl
@[simp] theorem State.setTimaAcc_reg8 (s : State) (n : Nat) (r : Reg8) : (s.setTimaAcc n).reg8 r = s.reg8 r := by
  cases r <;> rfl
@[simp] theorem State.setTimaAcc_peek (s : State) (n : Nat) (x : Word) : (s.setTimaAcc n).peek x = s.peek x := rfl

@[simp] theorem State.setLyAcc_a (s : State) (n : Nat) : (s.setLyAcc n).a = s.a := rfl
@[simp] theorem State.setLyAcc_b (s : State) (n : Nat) : (s.setLyAcc n).b = s.b := rfl
@[simp] theorem State.setLyAcc_c (s : State) (n : Nat) : (s.setLyAcc n).c = s.c := rfl
@[simp] theorem State.setLyAcc_d (s : State) (n : Nat) : (s.setLyAcc n).d = s.d := rfl
@[simp] theorem State.setLyAcc_e (s : State) (n : Nat) : (s.setLyAcc n).e = s.e := rfl
@[simp] theorem State.setLyAcc_h (s : State) (n : Nat) : (s.setLyAcc n).h = s.h := rfl
@[simp] theorem State.setLyAcc_l (s : State) (n : Nat) : (s.setLyAcc n).l = s.l := rfl
@[simp] theorem State.setLyAcc_f (s : State) (n : Nat) : (s.setLyAcc n).f = s.f := rfl
@[simp] theorem State.setLyAcc_pc (s : State) (n : Nat) : (s.setLyAcc n).pc = s.pc := rfl
@[simp] theorem State.setLyAcc_sp (s : State) (n : Nat) : (s.setLyAcc n).sp = s.sp := rfl
@[simp] theorem State.setLyAcc_mem (s : State) (n : Nat) : (s.setLyAcc n).mem = s.mem := rfl
@[simp] theorem State.setLyAcc_divAcc (s : State) (n : Nat) : (s.setLyAcc n).divAcc = s.divAcc := rfl
@[simp] theorem State.setLyAcc_timaAcc (s : State) (n : Nat) : (s.setLyAcc n).timaAcc = s.timaAcc := rfl
@[simp] theorem State.setLyAcc_lyAcc (s : State) (n : Nat) : (s.setLyAcc n).lyAcc = n := rfl
@[simp] theorem State.setLyAcc_params (s : State) (n : Nat) : (s.setLyAcc n).params = s.params := rfl
@[simp] theorem State.setLyAcc_reg8 (s : State) (n : Nat) (r : Reg8) : (s.setLyAcc n).reg8 r = s.reg8 r := by
  cases r <;> rfl
@[simp] theorem State.setLyAcc_peek (s : State) (n : Nat) (x : Word) : (s.setLyAcc n).peek x = s.peek x := rfl

@[simp] theorem State.setReg8_pc (s : State) (r : Reg8) (v : Byte) : (s.setReg8 r v).pc = s.pc := by
  cases r <;> rfl
@[simp] theorem State.setReg8_sp (s : State) (r : Reg8) (v : Byte) : (s.setReg8 r v).sp = s.sp := by
  cases r <;> rfl
@[simp] theorem State.setReg8_mem (s : State) (r : Reg8) (v : Byte) : (s.setReg8 r v).mem = s.mem := by
  cases r <;> rfl
@[simp] theorem State.setReg8_divAcc (s : State) (r : Reg8) (v : Byte) : (s.setReg8 r v).divAcc = s.divAcc := by
  cases r <;> rfl
@[simp] theorem State.setReg8_timaAcc (s : State) (r : Reg8) (v : Byte) : (s.setReg8 r v).timaAcc = s.timaAcc := by
  cases r <;> rfl
@[simp] theorem State.setReg8_lyAcc (s : State) (r : Reg8) (v : Byte) : (s.setReg8 r v).lyAcc = s.lyAcc := by
  cases r <;> rfl
@[simp] theorem State.setReg8_params (s : State) (r : Reg8) (v : Byte) : (s.setReg8 r v).params = s.params := by
  cases r <;> rfl
@[simp] theorem State.setReg8_peek (s : State) (r : Reg8) (v : Byte) (x : Word) :
    (s.setReg8 r v).peek x = s.peek x := by
  cases r <;> rfl
@[simp] theorem State.setReg8_a_a (s : State) (v : Byte) : (s.setReg8 .a v).a = v := rfl
@[simp] theorem State.setReg8_a_b (s : State) (v : Byte) : (s.setReg8 .a v).b = s.b := rfl
@[simp] theorem State.setReg8_a_c (s : State) (v : Byte) : (s.setReg8 .a v).c = s.c := rfl
@[simp] theorem State.setReg8_a_d (s : State) (v : Byte) : (s.setReg8 .a v).d = s.d := rfl
@[simp] theorem State.setReg8_a_e (s : State) (v : Byte) : (s.setReg8 .a v).e = s.e := rfl
@[simp] theorem State.setReg8_a_h (s : State) (v : Byte) : (s.setReg8 .a v).h = s.h := rfl
@[simp] theorem State.setReg8_a_l (s : State) (v : Byte) : (s.setReg8 .a v).l = s.l := rfl
@[simp] theorem State.setReg8_a_f (s : State) (v : Byte) : (s.setReg8 .a v).f = s.f := rfl
@[simp] theorem State.setReg8_b_a (s : State) (v : Byte) : (s.setReg8 .b v).a = s.a := rfl
@[simp] theorem State.setReg8_b_b (s : State) (v : Byte) : (s.setReg8 .b v).b = v := rfl
@[simp] theorem State.setReg8_b_c (s : State) (v : Byte) : (s.setReg8 .b v).c = s.c := rfl
@[simp] theorem State.setReg8_b_d (s : State) (v : Byte) : (s.setReg8 .b v).d = s.d := rfl
@[simp] theorem State.setReg8_b_e (s : State) (v : Byte) : (s.setReg8 .b v).e = s.e := rfl
@[simp] theorem State.setReg8_b_h (s : State) (v : Byte) : (s.setReg8 .b v).h = s.h := rfl
@[simp] theorem State.setReg8_b_l (s : State) (v : Byte) : (s.setReg8 .b v).l = s.l := rfl
@[simp] theorem State.setReg8_b_f (s : State) (v : Byte) : (s.setReg8 .b v).f = s.f := rfl
@[simp] theorem State.setReg8_c_a (s : State) (v : Byte) : (s.setReg8 .c v).a = s.a := rfl
@[simp] theorem State.setReg8_c_b (s : State) (v : Byte) : (s.setReg8 .c v).b = s.b := rfl
@[simp] theorem State.setReg8_c_c (s : State) (v : Byte) : (s.setReg8 .c v).c = v := rfl
@[simp] theorem State.setReg8_c_d (s : State) (v : Byte) : (s.setReg8 .c v).d = s.d := rfl
@[simp] theorem State.setReg8_c_e (s : State) (v : Byte) : (s.setReg8 .c v).e = s.e := rfl
@[simp] theorem State.setReg8_c_h (s : State) (v : Byte) : (s.setReg8 .c v).h = s.h := rfl
@[simp] theorem State.setReg8_c_l (s : State) (v : Byte) : (s.setReg8 .c v).l = s.l := rfl
@[simp] theorem State.setReg8_c_f (s : State) (v : Byte) : (s.setReg8 .c v).f = s.f := rfl
@[simp] theorem State.setReg8_d_a (s : State) (v : Byte) : (s.setReg8 .d v).a = s.a := rfl
@[simp] theorem State.setReg8_d_b (s : State) (v : Byte) : (s.setReg8 .d v).b = s.b := rfl
@[simp] theorem State.setReg8_d_c (s : State) (v : Byte) : (s.setReg8 .d v).c = s.c := rfl
@[simp] theorem State.setReg8_d_d (s : State) (v : Byte) : (s.setReg8 .d v).d = v := rfl
@[simp] theorem State.setReg8_d_e (s : State) (v : Byte) : (s.setReg8 .d v).e = s.e := rfl
@[simp] theorem State.setReg8_d_h (s : State) (v : Byte) : (s.setReg8 .d v).h = s.h := rfl
@[simp] theorem State.setReg8_d_l (s : State) (v : Byte) : (s.setReg8 .d v).l = s.l := rfl
@[simp] theorem State.setReg8_d_f (s : State) (v : Byte) : (s.setReg8 .d v).f = s.f := rfl
@[simp] theorem State.setReg8_e_a (s : State) (v : Byte) : (s.setReg8 .e v).a = s.a := rfl
@[simp] theorem State.setReg8_e_b (s : State) (v : Byte) : (s.setReg8 .e v).b = s.b := rfl
@[simp] theorem State.setReg8_e_c (s : State) (v : Byte) : (s.setReg8 .e v).c = s.c := rfl
@[simp] theorem State.setReg8_e_d (s : State) (v : Byte) : (s.setReg8 .e v).d = s.d := rfl
@[simp] theorem State.setReg8_e_e (s : State) (v : Byte) : (s.setReg8 .e v).e = v := rfl
@[simp] theorem State.setReg8_e_h (s : State) (v : Byte) : (s.setReg8 .e v).h = s.h := rfl
@[simp] theorem State.setReg8_e_l (s : State) (v : Byte) : (s.setReg8 .e v).l = s.l := rfl
@[simp] theorem State.setReg8_e_f (s : State) (v : Byte) : (s.setReg8 .e v).f = s.f := rfl
@[simp] theorem State.setReg8_h_a (s : State) (v : Byte) : (s.setReg8 .h v).a = s.a := rfl
@[simp] theorem State.setReg8_h_b (s : State) (v : Byte) : (s.setReg8 .h v).b = s.b := rfl
@[simp] theorem State.setReg8_h_c (s : State) (v : Byte) : (s.setReg8 .h v).c = s.c := rfl
@[simp] theorem State.setReg8_h_d (s : State) (v : Byte) : (s.setReg8 .h v).d = s.d := rfl
@[simp] theorem State.setReg8_h_e (s : State) (v : Byte) : (s.setReg8 .h v).e = s.e := rfl
@[simp] theorem State.setReg8_h_h (s : State) (v : Byte) : (s.setReg8 .h v).h = v := rfl
@[simp] theorem State.setReg8_h_l (s : State) (v : Byte) : (s.setReg8 .h v).l = s.l := rfl
@[simp] theorem State.setReg8_h_f (s : State) (v : Byte) : (s.setReg8 .h v).f = s.f := rfl
@[simp] theorem State.setReg8_l_a (s : State) (v : Byte) : (s.setReg8 .l v).a = s.a := rfl
@[simp] theorem State.setReg8_l_b (s : State) (v : Byte) : (s.setReg8 .l v).b = s.b := rfl
@[simp] theorem State.setReg8_l_c (s : State) (v : Byte) : (s.setReg8 .l v).c = s.c := rfl
@[simp] theorem State.setReg8_l_d (s : State) (v : Byte) : (s.setReg8 .l v).d = s.d := rfl
@[simp] theorem State.setReg8_l_e (s : State) (v : Byte) : (s.setReg8 .l v).e = s.e := rfl
@[simp] theorem State.setReg8_l_h (s : State) (v : Byte) : (s.setReg8 .l v).h = s.h := rfl
@[simp] theorem State.setReg8_l_l (s : State) (v : Byte) : (s.setReg8 .l v).l = v := rfl
@[simp] theorem State.setReg8_l_f (s : State) (v : Byte) : (s.setReg8 .l v).f = s.f := rfl
@[simp] theorem State.setReg8_f_a (s : State) (v : Byte) : (s.setReg8 .f v).a = s.a := rfl
@[simp] theorem State.setReg8_f_b (s : State) (v : Byte) : (s.setReg8 .f v).b = s.b := rfl
@[simp] theorem State.setReg8_f_c (s : State) (v : Byte) : (s.setReg8 .f v).c = s.c := rfl
@[simp] theorem State.setReg8_f_d (s : State) (v : Byte) : (s.setReg8 .f v).d = s.d := rfl
@[simp] theorem State.setReg8_f_e (s : State) (v : Byte) : (s.setReg8 .f v).e = s.e := rfl
@[simp] theorem State.setReg8_f_h (s : State) (v : Byte) : (s.setReg8 .f v).h = s.h := rfl
@[simp] theorem State.setReg8_f_l (s : State) (v : Byte) : (s.setReg8 .f v).l = s.l := rfl
@[simp] theorem State.setReg8_f_f (s : State) (v : Byte) : (s.setReg8 .f v).f = v &&& 0xF0#8 := rfl

/-- Reading a register after a write of one (R21, R23). -/
theorem State.reg8_setReg8 (s : State) (r q : Reg8) (v : Byte) :
    (s.setReg8 r v).reg8 q = if q = r then (if r = .f then v &&& 0xF0#8 else v) else s.reg8 q := by
  cases r <;> cases q <;> rfl

/-- A write to one register leaves the others (R20: no aliases). -/
theorem State.reg8_setReg8_ne (s : State) {r q : Reg8} (v : Byte) (h : q ≠ r) :
    (s.setReg8 r v).reg8 q = s.reg8 q := by
  rw [State.reg8_setReg8, if_neg h]

/-- Two states that agree in every field are equal. -/
theorem State.ext_fields {s t : State} (hr : ∀ r, t.reg8 r = s.reg8 r) (hpc : t.pc = s.pc) (hsp : t.sp = s.sp)
    (hm : t.mem = s.mem) (hd : t.divAcc = s.divAcc) (ht : t.timaAcc = s.timaAcc) (hl : t.lyAcc = s.lyAcc)
    (hp : t.params = s.params) : t = s := by
  have ha := hr .a
  have hb := hr .b
  have hc := hr .c
  have hd' := hr .d
  have he := hr .e
  have hh := hr .h
  have hl' := hr .l
  have hf := hr .f
  cases s
  cases t
  simp_all [State.reg8]

end Sys2Proof.Machine
end

