-- ==== Sys2Proof/Laws/Memory.lean ====
section
/-! SUPPORT. The laws of the store: a read after a write, and that every memory operation keeps the canonical form. The read
laws hold for every list, in canonical form or not. -/

namespace Sys2Proof.Machine

theorem Memory.read_erase_self (m : Memory) (a : Nat) : Memory.read (m.erase a) a = unlistedByte := by
  induction m with
  | nil => rfl
  | cons cell rest ih =>
    obtain ⟨k, v⟩ := cell
    by_cases hk : k = a
    · simpa [Memory.erase, hk] using ih
    · simpa [Memory.erase, Memory.read, hk] using ih

theorem Memory.read_erase_ne (m : Memory) {a x : Nat} (h : x ≠ a) : Memory.read (m.erase a) x = m.read x := by
  induction m with
  | nil => rfl
  | cons cell rest ih =>
    obtain ⟨k, v⟩ := cell
    by_cases hk : k = a
    · have hx : k ≠ x := fun e => h (e ▸ hk)
      simpa [Memory.erase, Memory.read, hk, Ne.symm h] using ih
    · simp only [Memory.erase, Memory.read, bne_iff_ne, ne_eq, hk, not_false_eq_true, List.filter_cons_of_pos]
      split
      · rfl
      · exact ih

theorem Memory.read_insert_self (m : Memory) (a : Nat) (v : Byte) (h : ∀ cell ∈ m, cell.1 ≠ a) :
    Memory.read (m.insert a v) a = v := by
  induction m with
  | nil => simp [Memory.insert, Memory.read]
  | cons cell rest ih =>
    obtain ⟨k, w⟩ := cell
    have hk : k ≠ a := h (k, w) (by simp)
    unfold Memory.insert
    split
    · simp [Memory.read]
    · simp only [Memory.read, hk, if_false]
      exact ih fun c hc => h c (List.mem_cons_of_mem _ hc)

theorem Memory.read_insert_ne (m : Memory) {a x : Nat} (v : Byte) (h : x ≠ a) :
    Memory.read (m.insert a v) x = m.read x := by
  induction m with
  | nil => simp [Memory.insert, Memory.read, Ne.symm h]
  | cons cell rest ih =>
    obtain ⟨k, w⟩ := cell
    unfold Memory.insert
    split
    · simp [Memory.read, Ne.symm h]
    · simp only [Memory.read, ih]

theorem Memory.erase_ne {m : Memory} {a : Nat} : ∀ cell ∈ m.erase a, cell.1 ≠ a := by
  intro cell h
  simpa using (List.mem_filter.mp h).2

/-- A read after a write: the byte written at its address, every other byte as before (R72). -/
theorem Memory.read_write (m : Memory) (a x : Nat) (v : Byte) :
    Memory.read (m.write a v) x = if x = a then v else m.read x := by
  unfold Memory.write
  by_cases hx : x = a
  · subst hx
    split
    · next hv => rw [Memory.read_erase_self, if_pos rfl, hv]
    · rw [Memory.read_insert_self _ _ _ Memory.erase_ne, if_pos rfl]
  · rw [if_neg hx]
    split
    · exact Memory.read_erase_ne m hx
    · rw [Memory.read_insert_ne _ _ hx, Memory.read_erase_ne m hx]

theorem Memory.mem_insert {m : Memory} {a : Nat} {v : Byte} {cell : Host.Cell} :
    cell ∈ m.insert a v ↔ cell = (a, v) ∨ cell ∈ m := by
  induction m with
  | nil => simp [Memory.insert]
  | cons c rest ih =>
    obtain ⟨k, w⟩ := c
    unfold Memory.insert
    split
    · simp
    · simp only [List.mem_cons, ih]
      tauto

/-- What a write leaves in the list: entries of other addresses that were there, and at most the new one. -/
theorem Memory.mem_write {m : Memory} {a : Nat} {v : Byte} {cell : Host.Cell} (h : cell ∈ m.write a v) :
    (cell = (a, v) ∧ v ≠ unlistedByte) ∨ cell ∈ m := by
  unfold Memory.write at h
  split at h
  · exact .inr (List.mem_filter.mp h).1
  · next hv =>
    rcases Memory.mem_insert.mp h with h | h
    · exact .inl ⟨h, hv⟩
    · exact .inr (List.mem_filter.mp h).1

theorem Memory.pairwise_insert {m : Memory} {a : Nat} (v : Byte) (hp : m.Pairwise fun x y => x.1 < y.1)
    (hne : ∀ cell ∈ m, cell.1 ≠ a) : (m.insert a v).Pairwise fun x y => x.1 < y.1 := by
  induction m with
  | nil => simp [Memory.insert]
  | cons c rest ih =>
    obtain ⟨k, w⟩ := c
    have hk : k ≠ a := hne (k, w) (by simp)
    rw [List.pairwise_cons] at hp
    unfold Memory.insert
    split
    · next hlt =>
      refine List.pairwise_cons.mpr ⟨?_, List.pairwise_cons.mpr hp⟩
      intro y hy
      rcases List.mem_cons.mp hy with rfl | hy
      · exact hlt
      · exact Nat.lt_trans hlt (hp.1 y hy)
    · refine List.pairwise_cons.mpr ⟨?_, ih hp.2 fun c hc => hne c (List.mem_cons_of_mem _ hc)⟩
      intro y hy
      rcases Memory.mem_insert.mp hy with rfl | hy
      · show k < a
        omega
      · exact hp.1 y hy

/-- A write keeps the canonical form. -/
theorem Memory.wf_write {m : Memory} (h : m.wf) {a : Nat} (ha : a < 65536) (v : Byte) : (m.write a v).wf := by
  refine ⟨?_, ?_⟩
  · unfold Memory.write
    split
    · exact h.1.filter _
    · exact Memory.pairwise_insert v (h.1.filter _) Memory.erase_ne
  · intro cell hc
    rcases Memory.mem_write hc with ⟨rfl, hv⟩ | hc
    · exact ⟨hv, ha⟩
    · exact h.2 cell hc

/-- A load of a run of bytes keeps the canonical form. -/
theorem Memory.wf_load {m : Memory} (h : m.wf) {base : Nat} {bytes : List Byte} (hb : base + bytes.length ≤ 65536) :
    (m.load base bytes).wf := by
  induction bytes generalizing m base with
  | nil => exact h
  | cons v rest ih =>
    simp only [List.length_cons] at hb
    exact ih (Memory.wf_write h (by omega) v) (by omega)

/-- What a load of a run of bytes leaves at each address (R74). -/
theorem Memory.read_load (m : Memory) (base : Nat) (bytes : List Byte) (x : Nat) :
    Memory.read (m.load base bytes) x
      = if base ≤ x ∧ x < base + bytes.length then bytes.getD (x - base) 0#8 else m.read x := by
  induction bytes generalizing m base with
  | nil => simp [Memory.load]
  | cons v rest ih =>
    rw [Memory.load, ih, Memory.read_write]
    simp only [List.length_cons]
    by_cases hx : x = base
    · subst hx
      have h1 : ¬ (x + 1 ≤ x ∧ x < x + 1 + rest.length) := by omega
      have h2 : x ≤ x ∧ x < x + (rest.length + 1) := by omega
      rw [if_neg h1, if_pos h2, if_pos rfl]
      simp
    · by_cases hr : base + 1 ≤ x ∧ x < base + 1 + rest.length
      · have h2 : base ≤ x ∧ x < base + (rest.length + 1) := by omega
        have h3 : x - base = (x - (base + 1)) + 1 := by omega
        rw [if_pos hr, if_pos h2, h3, List.getD_cons_succ]
      · have h2 : ¬ (base ≤ x ∧ x < base + (rest.length + 1)) := by omega
        rw [if_neg hr, if_neg h2, if_neg hx]

theorem Memory.read_of_lt (m : Memory) {a : Nat} (h : ∀ cell ∈ m, a < cell.1) : m.read a = unlistedByte := by
  induction m with
  | nil => rfl
  | cons c rest ih =>
    obtain ⟨k, v⟩ := c
    have hk : a < k := h (k, v) (by simp)
    simp only [Memory.read, Nat.ne_of_gt hk, if_false]
    exact ih fun c hc => h c (List.mem_cons_of_mem _ hc)

/-- In the canonical form equal contents are equal lists. -/
theorem Memory.ext_of_wf {m n : Memory} (hm : m.wf) (hn : n.wf) (h : ∀ a, m.read a = n.read a) : m = n := by
  induction m generalizing n with
  | nil =>
    cases n with
    | nil => rfl
    | cons c rest =>
      obtain ⟨k, v⟩ := c
      have hk := h k
      simp only [Memory.read, if_true] at hk
      exact absurd hk.symm (hn.2 (k, v) (by simp)).1
  | cons c rest ih =>
    obtain ⟨k, v⟩ := c
    obtain ⟨hp, hv⟩ := hm
    rw [List.pairwise_cons] at hp
    cases n with
    | nil =>
      have hk := h k
      simp only [Memory.read, if_true] at hk
      exact absurd hk (hv (k, v) (by simp)).1
    | cons c' rest' =>
      obtain ⟨k', v'⟩ := c'
      obtain ⟨hp', hv'⟩ := hn
      rw [List.pairwise_cons] at hp'
      have hkk : k = k' := by
        rcases Nat.lt_trichotomy k k' with hlt | he | hgt
        · have hk := h k
          have hz : Memory.read ((k', v') :: rest') k = unlistedByte := by
            refine Memory.read_of_lt _ fun c hc => ?_
            rcases List.mem_cons.mp hc with rfl | hc
            · exact hlt
            · exact Nat.lt_trans hlt (hp'.1 c hc)
          rw [hz] at hk
          simp only [Memory.read, if_true] at hk
          exact absurd hk (hv (k, v) (by simp)).1
        · exact he
        · have hk := h k'
          have hz : Memory.read ((k, v) :: rest) k' = unlistedByte := by
            refine Memory.read_of_lt _ fun c hc => ?_
            rcases List.mem_cons.mp hc with rfl | hc
            · exact hgt
            · exact Nat.lt_trans hgt (hp.1 c hc)
          rw [hz] at hk
          simp only [Memory.read, if_true] at hk
          exact absurd hk.symm (hv' (k', v') (by simp)).1
      subst hkk
      have hvv : v = v' := by
        have hk := h k
        simpa only [Memory.read, if_true] using hk
      subst hvv
      have hrest : rest = rest' := by
        refine ih ⟨hp.2, fun c hc => hv c (List.mem_cons_of_mem _ hc)⟩
          ⟨hp'.2, fun c hc => hv' c (List.mem_cons_of_mem _ hc)⟩ fun a => ?_
        by_cases ha : k = a
        · subst ha
          rw [Memory.read_of_lt _ hp.1, Memory.read_of_lt _ hp'.1]
        · have hk := h a
          simpa only [Memory.read, ha, if_false] using hk
      rw [hrest]

/-- A read after a write through the state's own accessors. -/
theorem State.peek_poke (s : State) (a x : Word) (v : Byte) :
    (s.poke a v).peek x = if x = a then v else s.peek x := by
  simp only [State.peek, State.poke_mem, Memory.read_write, BitVec.toNat_inj]

@[simp] theorem State.peek_poke_self (s : State) (a : Word) (v : Byte) : (s.poke a v).peek a = v := by
  simp [State.peek_poke]

theorem State.peek_poke_ne (s : State) {a x : Word} (v : Byte) (h : x ≠ a) : (s.poke a v).peek x = s.peek x := by
  simp [State.peek_poke, h]

/-- A write of a byte keeps the canonical form. -/
theorem State.poke_wf {s : State} (h : s.mem.wf) (a : Word) (v : Byte) : (s.poke a v).mem.wf :=
  Memory.wf_write h a.isLt v

/-- A write outside the echo and unusable ranges lists no byte there (R30). -/
theorem State.poke_noDead {s : State} (h : Memory.NoDeadCell s.mem) {a : Word} (v : Byte)
    (he : ¬ (0xE000 ≤ a.toNat ∧ a.toNat ≤ 0xFDFF)) (hu : ¬ (0xFEA0 ≤ a.toNat ∧ a.toNat ≤ 0xFEFF)) :
    Memory.NoDeadCell (s.poke a v).mem := by
  intro cell hc
  rcases Memory.mem_write hc with ⟨rfl, -⟩ | hc
  · exact ⟨he, hu⟩
  · exact h cell hc

/-- The reset store is in the canonical form. -/
theorem reset_mem_wf : State.reset.mem.wf := by decide

end Sys2Proof.Machine
end

