-- ==== Sys2Proof/Laws/Operands.lean ====
section
/-! SUPPORT. The operand forms in the arithmetic of words. -/

namespace Sys2Proof.Machine

theorem ioAddress_toNat (n : Byte) : (ioAddress n).toNat = 0xFF00 + n.toNat := by
  have hn := n.isLt
  simp only [ioAddress, BitVec.toNat_ofNat]
  omega

/-- `sext_8` is the two's-complement value of the byte (00_scope.md R7). -/
theorem sext8_eq (v : Byte) : sext8 v = v.toInt := by
  have hv := v.isLt
  simp only [sext8, BitVec.toInt]
  split <;> split <;> omega

/-- JR's target in the arithmetic of words (R174). -/
theorem relTarget_eq (p : Word) (base : JrBase) (e : Byte) :
    relTarget p base e = p + BitVec.ofNat 16 (jrBaseValue base) + e.signExtend 16 := by
  rw [relTarget, sext8_eq, BitVec.ofInt_add, BitVec.ofInt_add]
  congr 1
  congr 1
  simp

/-- `{hi, lo}` of a word's own halves is the word (R6, R69). -/
theorem wordOf_hi_lo (v : Word) : wordOf (hiByte v) (loByte v) = v := by
  have hv := v.isLt
  apply BitVec.eq_of_toNat_eq
  simp only [wordOf, hiByte, loByte, BitVec.toNat_ofNat, BitVec.extractLsb'_toNat, Nat.shiftRight_eq_div_pow]
  omega

end Sys2Proof.Machine
end

