-- ==== Sys2Proof/Laws/Outcome.lean ====
section
/-! SUPPORT. What `andThen` and `raise` can answer. -/

namespace Sys2Proof.Machine

variable {σ τ : Type}

@[simp] theorem andThen_next (s : σ) (k : σ → Host.Outcome τ Fault Refusal) : andThen (.next s) k = k s := rfl
@[simp] theorem andThen_fault (r : Fault) (k : σ → Host.Outcome τ Fault Refusal) : andThen (.fault r) k = .fault r := rfl
@[simp] theorem andThen_refused (r : Refusal) (k : σ → Host.Outcome τ Fault Refusal) :
    andThen (.refused r) k = .refused r := rfl

/-- A sequence answers a next state exactly when both parts do. -/
theorem andThen_eq_next {o : Host.Outcome σ Fault Refusal} {k : σ → Host.Outcome τ Fault Refusal} {t : τ} :
    andThen o k = .next t ↔ ∃ s, o = .next s ∧ k s = .next t := by
  cases o <;> simp [andThen]

/-- A sequence faults exactly when the first part does, or the second after it. -/
theorem andThen_eq_fault {o : Host.Outcome σ Fault Refusal} {k : σ → Host.Outcome τ Fault Refusal} {f : Fault} :
    andThen o k = .fault f ↔ o = .fault f ∨ ∃ s, o = .next s ∧ k s = .fault f := by
  cases o <;> simp [andThen]

/-- A sequence is refused exactly when the first part is, or the second after it. -/
theorem andThen_eq_refused {o : Host.Outcome σ Fault Refusal} {k : σ → Host.Outcome τ Fault Refusal} {r : Refusal} :
    andThen o k = .refused r ↔ o = .refused r ∨ ∃ s, o = .next s ∧ k s = .refused r := by
  cases o <;> simp [andThen]

/-- Taking a fault is never a next state or a refusal (R207). -/
theorem raise_eq (mk : State → Fault) (s : State) : (raise mk s : Host.Outcome σ Fault Refusal) = .fault (mk s) := rfl

end Sys2Proof.Machine
end

