-- ==== Sys2Proof/Laws/Bus.lean ====
section
/-! SUPPORT. What `BusRead` and `BusWrite` can do, the region table looked up once and for all (20_memory.md R61 to R67). -/

namespace Sys2Proof.Machine

theorem isUnusable_iff (a : Word) : isUnusable a = true ↔ 0xFEA0 ≤ a.toNat ∧ a.toNat ≤ 0xFEFF := by
  simp [isUnusable]

/-- A 16-bit address has a region (R62), and its two permissions are these (R61). -/
theorem regionOf_word (a : Word) : ∃ r, regionOf a.toNat = some r ∧ r.readable = !isUnusable a
    ∧ r.writable = (decide (0x8000 ≤ a.toNat) && !isUnusable a) := by
  have ha := a.isLt
  simp only [regionOf, regionTable, List.find?_cons, Region.owns]
  repeat' split
  all_goals simp_all [isUnusable]
  all_goals omega

/-- The resolved address as a number (R63). -/
theorem resolve_toNat (a : Word) : (resolve a).toNat
    = if 0xE000 ≤ a.toNat ∧ a.toNat ≤ 0xFDFF then a.toNat - 0x2000 else a.toNat := by
  have ha := a.isLt
  unfold resolve
  split
  · simp only [BitVec.toNat_sub, BitVec.toNat_ofNat]
    omega
  · rfl

/-- An address outside the echo range stands for itself (R63). -/
theorem resolve_of_not_echo {a : Word} (h : ¬ (0xE000 ≤ a.toNat ∧ a.toNat ≤ 0xFDFF)) : resolve a = a := if_neg h

/-- "the resolved address is never itself in the echo range" (R63). -/
theorem resolve_not_echo (a : Word) : ¬ (0xE000 ≤ (resolve a).toNat ∧ (resolve a).toNat ≤ 0xFDFF) := by
  rw [resolve_toNat]
  split <;> omega

theorem resolve_isUnusable (a : Word) : isUnusable (resolve a) = isUnusable a := by
  rw [Bool.eq_iff_iff, isUnusable_iff, isUnusable_iff, resolve_toNat]
  split <;> omega

theorem resolve_ge_iff (a : Word) : 0x8000 ≤ (resolve a).toNat ↔ 0x8000 ≤ a.toNat := by
  rw [resolve_toNat]
  split <;> omega

/-- `BusRead` at a 16-bit address (R64). -/
theorem busRead_eq (a : Word) (s : State) :
    busRead a s = if isUnusable a then 0xFF#8 else s.peek (resolve a) := by
  obtain ⟨r, hr, hread, -⟩ := regionOf_word (resolve a)
  simp only [busRead, hr, hread, resolve_isUnusable]
  cases isUnusable a <;> rfl

/-- `BusWrite` at a 16-bit address (R65): the three outcomes in the order of its tests. -/
theorem busWrite_eq (a : Word) (v : Byte) (s : State) :
    busWrite a v s = if isUnusable a then .next s else if 0x8000 ≤ a.toNat then storeByte a (resolve a) v s
      else raise (.readOnlyViolation a) s := by
  obtain ⟨r, hr, -, hwrite⟩ := regionOf_word (resolve a)
  simp only [busWrite, hr, hwrite, resolve_isUnusable, resolve_ge_iff]
  cases isUnusable a <;> simp

/-- Everything the store line of `BusWrite` can answer with a next state (R66). -/
theorem storeByte_next {addr a : Word} {v : Byte} {s t : State} (h : storeByte addr a v s = .next t) :
    (a = s.params.io.div ∧ t = (s.poke a 0#8).setDivAcc 0) ∨
    (a ≠ s.params.io.div ∧ a = s.params.io.tac ∧ t = s.poke a (v &&& 0x07#8)) ∨
    (a ≠ s.params.io.div ∧ a ≠ s.params.io.tac ∧ a ≠ s.params.io.ly ∧ t = s.poke a v) := by
  unfold storeByte at h
  split at h
  · next hd => exact .inl ⟨hd, by simpa using h.symm⟩
  · next hd =>
    split at h
    · next ht => exact .inr (.inl ⟨hd, ht, by simpa using h.symm⟩)
    · next ht =>
      split at h
      · simp [raise] at h
      · next hl => exact .inr (.inr ⟨hd, ht, hl, by simpa using h.symm⟩)

/-- Everything `BusWrite` can answer with a next state (R65, R66): a dropped write, or one of the three stores at the
resolved address, which is neither in ROM nor in the echo or unusable range. -/
theorem busWrite_next {addr : Word} {v : Byte} {s t : State} (h : busWrite addr v s = .next t) :
    (isUnusable addr = true ∧ t = s) ∨
    (isUnusable addr = false ∧ 0x8000 ≤ addr.toNat ∧
      ((resolve addr = s.params.io.div ∧ t = (s.poke (resolve addr) 0#8).setDivAcc 0) ∨
       (resolve addr ≠ s.params.io.div ∧ resolve addr = s.params.io.tac ∧ t = s.poke (resolve addr) (v &&& 0x07#8)) ∨
       (resolve addr ≠ s.params.io.div ∧ resolve addr ≠ s.params.io.tac ∧ resolve addr ≠ s.params.io.ly ∧
        t = s.poke (resolve addr) v))) := by
  rw [busWrite_eq] at h
  split at h
  · next hu => exact .inl ⟨hu, by simpa using h.symm⟩
  · next hu =>
    split at h
    · next hr => exact .inr ⟨by simpa using hu, hr, storeByte_next h⟩
    · simp [raise] at h

/-- Everything `BusWrite` can answer with a fault (R202): ReadOnlyViolation, nothing changed. -/
theorem busWrite_fault {addr : Word} {v : Byte} {s : State} {f : Fault} (h : busWrite addr v s = .fault f) :
    f = .readOnlyViolation addr s ∧ isUnusable addr = false ∧
      (addr.toNat < 0x8000 ∨ (resolve addr = s.params.io.ly ∧ resolve addr ≠ s.params.io.div ∧
        resolve addr ≠ s.params.io.tac)) := by
  rw [busWrite_eq] at h
  split at h
  · simp at h
  · next hu =>
    have hu' : isUnusable addr = false := by simpa using hu
    split at h
    · unfold storeByte at h
      split at h
      · simp at h
      · next hd =>
        split at h
        · simp at h
        · next ht =>
          split at h
          · next hl =>
            simp only [raise, Host.Outcome.fault.injEq] at h
            exact ⟨h.symm, hu', .inr ⟨hl, hd, ht⟩⟩
          · simp at h
    · next hr =>
      simp only [raise, Host.Outcome.fault.injEq] at h
      exact ⟨h.symm, hu', .inl (by omega)⟩

/-- `BusWrite` refuses nothing. -/
theorem busWrite_not_refused (addr : Word) (v : Byte) (s : State) (r : Refusal) : busWrite addr v s ≠ .refused r := by
  rw [busWrite_eq]
  unfold storeByte raise
  repeat' split
  all_goals simp

/-- What a bus write that answers leaves unchanged: all but the store and `div_acc`. -/
theorem busWrite_frame {addr : Word} {v : Byte} {s t : State} (h : busWrite addr v s = .next t) :
    (∀ r, t.reg8 r = s.reg8 r) ∧ t.pc = s.pc ∧ t.sp = s.sp ∧ t.timaAcc = s.timaAcc ∧ t.lyAcc = s.lyAcc ∧
      t.params = s.params := by
  rcases busWrite_next h with ⟨-, rfl⟩ | ⟨-, -, ⟨-, rfl⟩ | ⟨-, -, rfl⟩ | ⟨-, -, -, rfl⟩⟩ <;> simp

/-- The LDH page is outside the echo and the unusable range: an address there stands for itself. -/
theorem resolve_ioAddress (n : Byte) : resolve (ioAddress n) = ioAddress n := by
  apply resolve_of_not_echo
  rw [ioAddress_toNat]
  omega

theorem isUnusable_ioAddress (n : Byte) : isUnusable (ioAddress n) = false := by
  rw [Bool.eq_false_iff, Ne, isUnusable_iff, ioAddress_toNat]
  omega

end Sys2Proof.Machine
end

