-- ==== Sys2Proof/Laws/Decode.lean ====
section
/-! SUPPORT. What the decoder can answer (30_encoding.md R107, R109), and that the two halves of an `addr16` are its bytes
(R105). -/

namespace Sys2Proof

/-- The low half of an `addr16` is its first byte (R105). -/
theorem addr16_low (b1 b2 : Byte) : (addr16 b1 b2).extractLsb' 0 8 = b1 := by
  have h1 := b1.isLt
  have h2 := b2.isLt
  apply BitVec.eq_of_toNat_eq
  simp only [addr16, BitVec.extractLsb'_toNat, BitVec.toNat_ofNat, Nat.shiftRight_eq_div_pow]
  omega

/-- The high half of an `addr16` is its second byte (R105). -/
theorem addr16_high (b1 b2 : Byte) : (addr16 b1 b2).extractLsb' 8 8 = b2 := by
  have h1 := b1.isLt
  have h2 := b2.isLt
  apply BitVec.eq_of_toNat_eq
  simp only [addr16, BitVec.extractLsb'_toNat, BitVec.toNat_ofNat, Nat.shiftRight_eq_div_pow]
  omega

/-- A word is the `addr16` of its two bytes. -/
theorem addr16_halves (nn : Word) : addr16 (nn.extractLsb' 0 8) (nn.extractLsb' 8 8) = nn := by
  have h := nn.isLt
  apply BitVec.eq_of_toNat_eq
  simp only [addr16, BitVec.extractLsb'_toNat, BitVec.toNat_ofNat, Nat.shiftRight_eq_div_pow]
  omega

/-- An instruction is 1, 2 or 3 bytes long (R100). -/
theorem Instr.length_cases (i : Instr) : i.length = 1 ∨ i.length = 2 ∨ i.length = 3 := by
  unfold Instr.length
  cases i.mnemonic <;> simp [Mnemonic.length]

/-- What the opcode map answers has that opcode byte, and its operand bytes are the bytes after it (R107). -/
theorem decodeBytes_some {op b1 b2 : Byte} {i : Instr} (h : decodeBytes op b1 b2 = some i) :
    i.opcode = op ∧ i.operand.bytes = [b1, b2].take (i.length - 1) := by
  unfold decodeBytes at h
  split at h <;> first | (cases h; done) | skip
  all_goals
    rename_i hop
    have hb := congrArg (BitVec.ofNat 8) hop
    rw [BitVec.ofNat_toNat, BitVec.setWidth_eq] at hb
    cases h
    subst hb
    simp [Instr.opcode, Instr.operand, Operand.bytes, Instr.length, Instr.mnemonic, Mnemonic.length, addr16_low,
      addr16_high]

end Sys2Proof
end

