-- ==== Sys2Proof/Laws/Stack.lean ====
section
/-! SUPPORT. What the stack helpers can do (42_control.md R170, R171). -/

namespace Sys2Proof.Machine

/-- `push16` answers exactly when both bus writes do, SP decremented before each (R170). -/
theorem push16_next {v : Word} {s t : State} (h : push16 v s = .next t) :
    ∃ u, busWrite (s.sp - 1#16) (hiByte v) (s.setSp (s.sp - 1#16)) = .next u ∧
      busWrite (s.sp - 2#16) (loByte v) (u.setSp (s.sp - 2#16)) = .next t := by
  obtain ⟨u, h1, h2⟩ := andThen_eq_next.mp h
  have hsp : u.sp = s.sp - 1#16 := (busWrite_frame h1).2.2.1
  refine ⟨u, h1, ?_⟩
  have he : s.sp - 1#16 - 1#16 = s.sp - 2#16 := by rw [BitVec.sub_sub]; rfl
  simpa only [pushByte, hsp, he, State.setSp_sp] using h2

/-- `push16` faults at its first write, SP decremented once and nothing stored, or at its second, SP decremented twice
and the high byte written (R170, R207 (4)). -/
theorem push16_fault {v : Word} {s : State} {f : Fault} (h : push16 v s = .fault f) :
    f = .readOnlyViolation (s.sp - 1#16) (s.setSp (s.sp - 1#16)) ∨
    ∃ u, busWrite (s.sp - 1#16) (hiByte v) (s.setSp (s.sp - 1#16)) = .next u ∧
      f = .readOnlyViolation (s.sp - 2#16) (u.setSp (s.sp - 2#16)) := by
  rcases andThen_eq_fault.mp h with h1 | ⟨u, h1, h2⟩
  · exact .inl (busWrite_fault h1).1
  · have hsp : u.sp = s.sp - 1#16 := (busWrite_frame h1).2.2.1
    have he : s.sp - 1#16 - 1#16 = s.sp - 2#16 := by rw [BitVec.sub_sub]; rfl
    refine .inr ⟨u, h1, ?_⟩
    have h3 := (busWrite_fault h2).1
    simpa only [hsp, he, State.setSp_sp] using h3

/-- `push16` refuses nothing. -/
theorem push16_not_refused (v : Word) (s : State) (r : Refusal) : push16 v s ≠ .refused r := by
  intro h
  rcases andThen_eq_refused.mp h with h | ⟨u, -, h⟩ <;> exact busWrite_not_refused _ _ _ _ h

/-- `push16` moves SP down by two and leaves every register and the other accumulators alone. -/
theorem push16_frame {v : Word} {s t : State} (h : push16 v s = .next t) :
    (∀ r, t.reg8 r = s.reg8 r) ∧ t.pc = s.pc ∧ t.sp = s.sp - 2#16 ∧ t.timaAcc = s.timaAcc ∧ t.lyAcc = s.lyAcc ∧
      t.params = s.params := by
  obtain ⟨u, h1, h2⟩ := push16_next h
  obtain ⟨a1, a2, -, a4, a5, a6⟩ := busWrite_frame h1
  obtain ⟨b1, b2, b3, b4, b5, b6⟩ := busWrite_frame h2
  simp_all

/-- `pop16` reads the low byte at SP and the high byte above it, and moves SP up by two (R171). -/
theorem pop16_eq (s : State) :
    pop16 s = (wordOf (busRead (s.sp + 1#16) (s.setSp (s.sp + 1#16))) (busRead s.sp s), s.setSp (s.sp + 2#16)) := by
  have he : s.sp + 1#16 + 1#16 = s.sp + 2#16 := by rw [BitVec.add_assoc]; rfl
  simp only [pop16, State.setSp_sp, he]
  rfl

end Sys2Proof.Machine
end

