-- ==== Sys2Proof/Laws/Exec.lean ====
section
/-! SUPPORT. Said once: everything `exec` can answer, and everything the engine step can (43_system.md R193, R194). Later
proofs take these cases instead of unfolding the meanings. -/

namespace Sys2Proof.Machine

/-- The forms of a next state of `exec` (R194): what each group of instructions may have changed. -/
inductive ExecNext (i : Instr) (s : State) : State → Prop where
  /-- 40_alu.md: A and F. -/
  | alu (v g : Byte) (h : i.mnemonic ∈ [.add, .sub, .and, .or, .xor, .incA, .decA]) :
      ExecNext i s (((s.setReg8 .a v).setReg8 .f g).advance i.length)
  /-- R150: one register takes another's value. -/
  | copy (dst src : Reg8) (h : i.operand = .regs dst src) (hm : i.mnemonic = .ldRR) (hd : dst ≠ .f) (hs : src ≠ .f) :
      ExecNext i s ((s.setReg8 dst (s.reg8 src)).advance i.length)
  /-- R151, R153: A takes a byte. -/
  | loadA (v : Byte) (h : i.mnemonic ∈ [.ldAn, .ldhLoad]) : ExecNext i s ((s.setReg8 .a v).advance i.length)
  /-- R152: a bus write to the page 0xFF00. -/
  | storeA (n : Byte) (u : State) (h : i = .ldhStore n) (hw : busWrite (ioAddress n) s.a s = .next u) :
      ExecNext i s (u.advance i.length)
  /-- R173, R174: PC alone. -/
  | jump (v : Word) (h : i.mnemonic ∈ [.jp, .jr]) : ExecNext i s (s.setPc v)
  /-- R175: a push, then PC. -/
  | call (nn : Word) (u : State) (h : i = .call nn) (hp : push16 (BitVec.ofNat 16 (s.pc.toNat + 3)) s = .next u) :
      ExecNext i s (u.setPc nn)
  /-- R176: SP and PC. -/
  | ret (h : i = .ret) : ExecNext i s ((s.setSp (s.sp + 2#16)).setPc (pop16 s).1)
  /-- R190: PC alone. -/
  | halt (h : i = .halt) : ExecNext i s (s.advance i.length)

/-- What `exec` can answer with a next state. -/
theorem exec_next {i : Instr} {s t : State} (h : exec i s = .next t) : ExecNext i s t := by
  cases i
  case ldhStore n =>
    obtain ⟨u, hw, hu⟩ := andThen_eq_next.mp h
    cases hu
    exact .storeA n u rfl hw
  case call nn =>
    obtain ⟨u, hp, hu⟩ := andThen_eq_next.mp h
    cases hu
    exact .call nn u rfl hp
  case ret =>
    have hp := congrArg Prod.snd (pop16_eq s)
    cases h
    rw [hp]
    exact .ret rfl
  case halt =>
    cases h
    exact .halt rfl
  case jp nn =>
    cases h
    exact .jump _ (by simp [Instr.mnemonic])
  case jr e =>
    cases h
    exact .jump _ (by simp [Instr.mnemonic])
  case ldAn n =>
    cases h
    exact .loadA (i := .ldAn n) _ (by simp [Instr.mnemonic])
  case ldhLoad n =>
    cases h
    exact .loadA (i := .ldhLoad n) _ (by simp [Instr.mnemonic])
  case addAn n =>
    cases h
    exact .alu (i := .addAn n) _ _ (by simp [Instr.mnemonic])
  case subAn n =>
    cases h
    exact .alu (i := .subAn n) _ _ (by simp [Instr.mnemonic])
  case andAn n =>
    cases h
    exact .alu (i := .andAn n) _ _ (by simp [Instr.mnemonic])
  case orAn n =>
    cases h
    exact .alu (i := .orAn n) _ _ (by simp [Instr.mnemonic])
  case xorAn n =>
    cases h
    exact .alu (i := .xorAn n) _ _ (by simp [Instr.mnemonic])
  case incA =>
    cases h
    exact .alu (i := .incA) _ _ (by simp [Instr.mnemonic])
  case decA =>
    cases h
    exact .alu (i := .decA) _ _ (by simp [Instr.mnemonic])
  all_goals
    cases h
    exact .copy _ _ rfl rfl (by decide) (by decide)

/-- Only LDH (n),A and CALL can fault, as their bus write or their push does (R205). -/
theorem exec_fault {i : Instr} {s : State} {f : Fault} (h : exec i s = .fault f) :
    (∃ n, i = .ldhStore n ∧ busWrite (ioAddress n) s.a s = .fault f) ∨
    ∃ nn, i = .call nn ∧ push16 (BitVec.ofNat 16 (s.pc.toNat + 3)) s = .fault f := by
  cases i
  case ldhStore n =>
    rcases andThen_eq_fault.mp h with hw | ⟨u, -, hu⟩
    · exact .inl ⟨n, rfl, hw⟩
    · cases hu
  case call nn =>
    rcases andThen_eq_fault.mp h with hp | ⟨u, -, hu⟩
    · exact .inr ⟨nn, rfl, hp⟩
    · cases hu
  all_goals cases h

/-- No instruction is refused (R8). -/
theorem exec_not_refused (i : Instr) (s : State) (r : Refusal) : exec i s ≠ .refused r := by
  intro h
  cases i
  case ldhStore n =>
    rcases andThen_eq_refused.mp h with hw | ⟨u, -, hu⟩
    · exact busWrite_not_refused _ _ _ _ hw
    · cases hu
  case call nn =>
    rcases andThen_eq_refused.mp h with hp | ⟨u, -, hu⟩
    · exact push16_not_refused _ _ _ hp
    · cases hu
  all_goals cases h

/-- The engine step: either the opcode byte at PC is outside the map, or the three bytes fetched are one instruction, which
is executed (R193, R204). -/
theorem engineStep_cases (s : State) :
    (decodeBytes (busRead s.pc s) (busRead (s.pc + 1#16) s) (busRead (s.pc + 2#16) s) = none ∧
      engineStep s = .fault (.unsupportedOpcode (.opcode (busRead s.pc s)) s)) ∨
    ∃ i, decodeBytes (busRead s.pc s) (busRead (s.pc + 1#16) s) (busRead (s.pc + 2#16) s) = some i ∧
      decode (fetchBytes s) = .ok (i, (fetchBytes s).drop i.length) ∧
      engineStep s = andThen (exec i s) fun t => .next (t, cyclesOf s.params.cost i.mnemonic) := by
  cases hd : decodeBytes (busRead s.pc s) (busRead (s.pc + 1#16) s) (busRead (s.pc + 2#16) s) with
  | none =>
    have hf : decode (fetchBytes s) = .error (.unsupportedOpcode (busRead s.pc s)) := by
      simp [fetchBytes, decode, hd]
    exact .inl ⟨rfl, by simp only [engineStep, hf, raise]⟩
  | some i =>
    have hl : ¬ (2 + 1 < i.length) := by
      rcases i.length_cases with h | h | h <;> omega
    have hf : decode (fetchBytes s) = .ok (i, (fetchBytes s).drop i.length) := by
      simp only [fetchBytes, decode, List.getD_cons_zero, List.getD_cons_succ, hd, List.length_cons, List.length_nil]
      rw [if_neg hl]
    exact .inr ⟨i, rfl, hf, by simp only [engineStep, hf]⟩

/-- The system step after the engine step (R240). -/
theorem systemStep_next {s t : State} (h : systemStep s = .next t) :
    ∃ i u, decode (fetchBytes s) = .ok (i, (fetchBytes s).drop i.length) ∧ exec i s = .next u ∧
      t = scanlineTick (cyclesOf s.params.cost i.mnemonic) (timerStep (cyclesOf s.params.cost i.mnemonic) u) := by
  obtain ⟨⟨u, c⟩, h1, h2⟩ := andThen_eq_next.mp h
  rcases engineStep_cases s with ⟨-, he⟩ | ⟨i, -, hd, he⟩
  · rw [he] at h1
    cases h1
  · rw [he] at h1
    obtain ⟨w, hw, hu⟩ := andThen_eq_next.mp h1
    cases hu
    cases h2
    exact ⟨i, u, hd, hw, rfl⟩

/-- A system step faults only as its engine step does: at decode or in the instruction (R207 (1)). -/
theorem systemStep_fault {s : State} {f : Fault} (h : systemStep s = .fault f) :
    (decodeBytes (busRead s.pc s) (busRead (s.pc + 1#16) s) (busRead (s.pc + 2#16) s) = none ∧
      f = .unsupportedOpcode (.opcode (busRead s.pc s)) s) ∨
    ∃ i, decode (fetchBytes s) = .ok (i, (fetchBytes s).drop i.length) ∧ exec i s = .fault f := by
  rcases andThen_eq_fault.mp h with h1 | ⟨r, -, h2⟩
  · rcases engineStep_cases s with ⟨hn, he⟩ | ⟨i, -, hd, he⟩
    · rw [he] at h1
      cases h1
      exact .inl ⟨hn, rfl⟩
    · rw [he] at h1
      rcases andThen_eq_fault.mp h1 with hx | ⟨u, -, hu⟩
      · exact .inr ⟨i, hd, hx⟩
      · cases hu
  · cases h2

end Sys2Proof.Machine
end

