-- ==== Sys2Proof/Laws/Flags.lean ====
section
/-! SUPPORT. Reading back the byte `mkF` builds (10_state.md R23). -/

namespace Sys2Proof.Machine

@[simp] theorem flagZ_mkF (z n h c : Bool) : flagZ (mkF z n h c) = z := by
  cases z <;> cases n <;> cases h <;> cases c <;> rfl
@[simp] theorem flagN_mkF (z n h c : Bool) : flagN (mkF z n h c) = n := by
  cases z <;> cases n <;> cases h <;> cases c <;> rfl
@[simp] theorem flagH_mkF (z n h c : Bool) : flagH (mkF z n h c) = h := by
  cases z <;> cases n <;> cases h <;> cases c <;> rfl
@[simp] theorem flagC_mkF (z n h c : Bool) : flagC (mkF z n h c) = c := by
  cases z <;> cases n <;> cases h <;> cases c <;> rfl

/-- The mask of every write to F (R23) leaves a byte of `mkF` as it is. -/
@[simp] theorem mkF_and_F0 (z n h c : Bool) : mkF z n h c &&& 0xF0#8 = mkF z n h c := by
  cases z <;> cases n <;> cases h <;> cases c <;> rfl

/-- The low nibble of a masked byte is 0 (R23). -/
theorem and_F0_and_0F (v : Byte) : v &&& 0xF0#8 &&& 0x0F#8 = 0#8 := by
  rw [BitVec.and_assoc]
  exact BitVec.and_zero

end Sys2Proof.Machine
end

