-- ==== Sys2Proof/Laws/Loops.lean ====
section
/-! SUPPORT. The while loop in closed form: how often it turns and what it leaves in the accumulator. -/

namespace Sys2Proof.Machine

theorem whileGe_eq {p : Nat} (hp : 0 < p) (tick : State → State) (fuel acc : Nat) (s : State) (h : acc ≤ fuel) :
    whileGe p tick fuel acc s = (acc % p, tick^[acc / p] s) := by
  induction fuel generalizing acc s with
  | zero =>
    obtain rfl : acc = 0 := by omega
    simp [whileGe]
  | succ fuel ih =>
    unfold whileGe
    split
    · next hle =>
      rw [ih (acc - p) (tick s) (by omega), Nat.mod_eq_sub_mod hle, Nat.div_eq_sub_div hp hle, Function.iterate_succ_apply]
    · next hlt =>
      rw [Nat.mod_eq_of_lt (by omega), Nat.div_eq_of_lt (by omega)]
      rfl

/-- The loop turns `acc / p` times and leaves `acc % p`. -/
theorem drain_eq {p : Nat} (hp : 0 < p) (tick : State → State) (acc : Nat) (s : State) :
    drain p tick acc s = (acc % p, tick^[acc / p] s) :=
  whileGe_eq hp tick acc acc s le_rfl

/-- What every turn keeps, the loop keeps. -/
theorem iterate_keeps {P : State → Prop} {tick : State → State} (h : ∀ s, P s → P (tick s)) {s : State} (hs : P s)
    (k : Nat) : P (tick^[k] s) := by
  induction k generalizing s with
  | zero => exact hs
  | succ k ih => exact ih (h s hs)

end Sys2Proof.Machine
end

