-- ==== Sys2Proof/Laws/Params.lean ====
section
/-! SUPPORT. What the constraints of 10_state.md R31 give: where the peripheral registers lie and that they are distinct. -/

namespace Sys2Proof

/-- A peripheral register lies in the page 0xFF00 to 0xFF7F (R31). -/
theorem IoAddr.WF.range {io : IoAddr} (h : io.WF) {a : Word} (ha : a ∈ io.all) :
    0xFF00 ≤ a.toNat ∧ a.toNat ≤ 0xFF7F := by
  have hall := List.all_eq_true.mp h.1 a ha
  simpa using hall

/-- DIV, TIMA, TMA, TAC, LCDC and LY are six addresses (R31). -/
theorem IoAddr.WF.distinct {io : IoAddr} (h : io.WF) :
    [io.div, io.tima, io.tma, io.tac, io.lcdc, io.ly].Nodup := by
  have hn := h.2
  simp only [IoAddr.all, List.nodup_cons, List.mem_cons, not_or] at hn ⊢
  tauto

/-- The default IO_ADDR, CYCLE_COST and JR_BASE meet their constraints. -/
theorem Machine.defaultParams_wf : Machine.defaultParams.WF := by decide +kernel

end Sys2Proof
end

