-- ==== Sys2Proof/Laws/PerInstr.lean ====
section
/-! SUPPORT. The family `Shape`: for every instruction, its length is the number of bytes it encodes to (30_encoding.md
R100), and its record is well formed (R101). One lemma for each constructor. -/

namespace Sys2Proof.Laws

/-- The encoding has the instruction's length (R100) and the record is one decode could produce (R101). -/
def Shape.Statement (i : Instr) : Prop := (encode i).length = i.length ∧ i.wf = true

theorem Shape.jr (e : Byte) : Shape.Statement (.jr e) := ⟨rfl, rfl⟩
theorem Shape.incA : Shape.Statement .incA := ⟨rfl, rfl⟩
theorem Shape.decA : Shape.Statement .decA := ⟨rfl, rfl⟩
theorem Shape.ldAn (n : Byte) : Shape.Statement (.ldAn n) := ⟨rfl, rfl⟩
theorem Shape.ldBB : Shape.Statement .ldBB := ⟨rfl, rfl⟩
theorem Shape.ldBC : Shape.Statement .ldBC := ⟨rfl, rfl⟩
theorem Shape.ldBD : Shape.Statement .ldBD := ⟨rfl, rfl⟩
theorem Shape.ldBE : Shape.Statement .ldBE := ⟨rfl, rfl⟩
theorem Shape.ldBH : Shape.Statement .ldBH := ⟨rfl, rfl⟩
theorem Shape.ldBL : Shape.Statement .ldBL := ⟨rfl, rfl⟩
theorem Shape.ldBA : Shape.Statement .ldBA := ⟨rfl, rfl⟩
theorem Shape.ldCB : Shape.Statement .ldCB := ⟨rfl, rfl⟩
theorem Shape.ldCC : Shape.Statement .ldCC := ⟨rfl, rfl⟩
theorem Shape.ldCD : Shape.Statement .ldCD := ⟨rfl, rfl⟩
theorem Shape.ldCE : Shape.Statement .ldCE := ⟨rfl, rfl⟩
theorem Shape.ldCH : Shape.Statement .ldCH := ⟨rfl, rfl⟩
theorem Shape.ldCL : Shape.Statement .ldCL := ⟨rfl, rfl⟩
theorem Shape.ldCA : Shape.Statement .ldCA := ⟨rfl, rfl⟩
theorem Shape.ldDB : Shape.Statement .ldDB := ⟨rfl, rfl⟩
theorem Shape.ldDC : Shape.Statement .ldDC := ⟨rfl, rfl⟩
theorem Shape.ldDD : Shape.Statement .ldDD := ⟨rfl, rfl⟩
theorem Shape.ldDE : Shape.Statement .ldDE := ⟨rfl, rfl⟩
theorem Shape.ldDH : Shape.Statement .ldDH := ⟨rfl, rfl⟩
theorem Shape.ldDL : Shape.Statement .ldDL := ⟨rfl, rfl⟩
theorem Shape.ldDA : Shape.Statement .ldDA := ⟨rfl, rfl⟩
theorem Shape.ldEB : Shape.Statement .ldEB := ⟨rfl, rfl⟩
theorem Shape.ldEC : Shape.Statement .ldEC := ⟨rfl, rfl⟩
theorem Shape.ldED : Shape.Statement .ldED := ⟨rfl, rfl⟩
theorem Shape.ldEE : Shape.Statement .ldEE := ⟨rfl, rfl⟩
theorem Shape.ldEH : Shape.Statement .ldEH := ⟨rfl, rfl⟩
theorem Shape.ldEL : Shape.Statement .ldEL := ⟨rfl, rfl⟩
theorem Shape.ldEA : Shape.Statement .ldEA := ⟨rfl, rfl⟩
theorem Shape.ldHB : Shape.Statement .ldHB := ⟨rfl, rfl⟩
theorem Shape.ldHC : Shape.Statement .ldHC := ⟨rfl, rfl⟩
theorem Shape.ldHD : Shape.Statement .ldHD := ⟨rfl, rfl⟩
theorem Shape.ldHE : Shape.Statement .ldHE := ⟨rfl, rfl⟩
theorem Shape.ldHH : Shape.Statement .ldHH := ⟨rfl, rfl⟩
theorem Shape.ldHL : Shape.Statement .ldHL := ⟨rfl, rfl⟩
theorem Shape.ldHA : Shape.Statement .ldHA := ⟨rfl, rfl⟩
theorem Shape.ldLB : Shape.Statement .ldLB := ⟨rfl, rfl⟩
theorem Shape.ldLC : Shape.Statement .ldLC := ⟨rfl, rfl⟩
theorem Shape.ldLD : Shape.Statement .ldLD := ⟨rfl, rfl⟩
theorem Shape.ldLE : Shape.Statement .ldLE := ⟨rfl, rfl⟩
theorem Shape.ldLH : Shape.Statement .ldLH := ⟨rfl, rfl⟩
theorem Shape.ldLL : Shape.Statement .ldLL := ⟨rfl, rfl⟩
theorem Shape.ldLA : Shape.Statement .ldLA := ⟨rfl, rfl⟩
theorem Shape.halt : Shape.Statement .halt := ⟨rfl, rfl⟩
theorem Shape.ldAB : Shape.Statement .ldAB := ⟨rfl, rfl⟩
theorem Shape.ldAC : Shape.Statement .ldAC := ⟨rfl, rfl⟩
theorem Shape.ldAD : Shape.Statement .ldAD := ⟨rfl, rfl⟩
theorem Shape.ldAE : Shape.Statement .ldAE := ⟨rfl, rfl⟩
theorem Shape.ldAH : Shape.Statement .ldAH := ⟨rfl, rfl⟩
theorem Shape.ldAL : Shape.Statement .ldAL := ⟨rfl, rfl⟩
theorem Shape.ldAA : Shape.Statement .ldAA := ⟨rfl, rfl⟩
theorem Shape.jp (nn : Word) : Shape.Statement (.jp nn) := ⟨rfl, rfl⟩
theorem Shape.addAn (n : Byte) : Shape.Statement (.addAn n) := ⟨rfl, rfl⟩
theorem Shape.ret : Shape.Statement .ret := ⟨rfl, rfl⟩
theorem Shape.call (nn : Word) : Shape.Statement (.call nn) := ⟨rfl, rfl⟩
theorem Shape.subAn (n : Byte) : Shape.Statement (.subAn n) := ⟨rfl, rfl⟩
theorem Shape.ldhStore (n : Byte) : Shape.Statement (.ldhStore n) := ⟨rfl, rfl⟩
theorem Shape.andAn (n : Byte) : Shape.Statement (.andAn n) := ⟨rfl, rfl⟩
theorem Shape.xorAn (n : Byte) : Shape.Statement (.xorAn n) := ⟨rfl, rfl⟩
theorem Shape.ldhLoad (n : Byte) : Shape.Statement (.ldhLoad n) := ⟨rfl, rfl⟩
theorem Shape.orAn (n : Byte) : Shape.Statement (.orAn n) := ⟨rfl, rfl⟩

end Sys2Proof.Laws
end

