-- ==== Sys2Proof/Laws/Peripherals.lean ====
section
/-! SUPPORT. The peripherals as iterated ticks, and what they never touch (20_memory.md R67). -/

namespace Sys2Proof.Machine

theorem period_pos (tac : Byte) : 0 < period tac := by
  unfold period
  split <;> decide

/-- Part 1 of `TimerStep` (R222): as many DIV increments as 256 goes into the accumulator. -/
theorem dividerStep_eq (c : Nat) (s : State) :
    dividerStep c s = (divTick^[(s.divAcc + c) / 256] s).setDivAcc ((s.divAcc + c) % 256) := by
  simp only [dividerStep, drain_eq (p := 256) (by decide)]

/-- Parts 3 and 4 of `TimerStep` (R222). -/
theorem intervalStep_eq (c : Nat) (s : State) :
    intervalStep c s = (timaTick^[(s.timaAcc + c) / period (s.peek s.params.io.tac)] s).setTimaAcc
      ((s.timaAcc + c) % period (s.peek s.params.io.tac)) := by
  simp only [intervalStep, drain_eq (period_pos _)]

/-- R225 (a): `TimerStep(0)` changes nothing, from any state. -/
@[simp] theorem timerStep_zero (s : State) : timerStep 0 s = s := rfl

/-- Any other count runs the procedure of R222. -/
theorem timerStep_pos {c : Nat} (hc : 0 < c) (s : State) : timerStep c s = timerRun c s :=
  if_neg (Nat.ne_of_gt hc)

/-- The procedure of R222 changes nothing at a count of 0 unless an accumulator already holds a whole period. -/
theorem timerRun_zero {s : State} (hd : s.divAcc < 256)
    (ht : timerEnabled (s.peek s.params.io.tac) = true → s.timaAcc < period (s.peek s.params.io.tac)) :
    timerRun 0 s = s := by
  have hdiv : dividerStep 0 s = s := by
    simp [dividerStep_eq, Nat.div_eq_of_lt hd, Nat.mod_eq_of_lt hd, State.setDivAcc]
  simp only [timerRun, hdiv]
  split
  · rename_i h
    simp [intervalStep_eq, Nat.div_eq_of_lt (ht h), Nat.mod_eq_of_lt (ht h), State.setTimaAcc]
  · rfl

/-- `ScanlineTick` with the LCD on (R232). -/
theorem scanlineTick_on {s : State} (h : lcdOn s = true) (c : Nat) :
    scanlineTick c s = (lyTick^[(s.lyAcc + c) / 456] s).setLyAcc ((s.lyAcc + c) % 456) := by
  simp only [scanlineTick, h, if_true, drain_eq (p := 456) (by decide)]

/-- R235 (a): `ScanlineTick(0)` with the LCD on changes nothing, from any `ly_acc` in the range of R38. -/
theorem scanlineTick_zero {s : State} (h : lcdOn s = true) (hl : s.lyAcc < 456) : scanlineTick 0 s = s := by
  simp [scanlineTick_on h, Nat.div_eq_of_lt hl, Nat.mod_eq_of_lt hl, State.setLyAcc]

/-- `ScanlineTick` with the LCD off (R232). -/
theorem scanlineTick_off {s : State} (h : lcdOn s = false) (c : Nat) :
    scanlineTick c s = (s.poke s.params.io.ly 0#8).setLyAcc 0 := by
  simp [scanlineTick, h]

/-- All of the state but the store. -/
def SameButMem (s t : State) : Prop :=
  (∀ r, t.reg8 r = s.reg8 r) ∧ t.pc = s.pc ∧ t.sp = s.sp ∧ t.divAcc = s.divAcc ∧ t.timaAcc = s.timaAcc ∧
    t.lyAcc = s.lyAcc ∧ t.params = s.params

theorem SameButMem.refl (s : State) : SameButMem s s := ⟨fun _ => rfl, rfl, rfl, rfl, rfl, rfl, rfl⟩

theorem SameButMem.poke {s t : State} (h : SameButMem s t) (a : Word) (v : Byte) : SameButMem s (t.poke a v) := by
  simpa [SameButMem] using h

theorem divTick_iterate_sameButMem (s : State) (k : Nat) : SameButMem s (divTick^[k] s) :=
  iterate_keeps (P := SameButMem s) (fun _ h => h.poke _ _) (SameButMem.refl s) k

theorem timaTick_iterate_sameButMem (s : State) (k : Nat) : SameButMem s (timaTick^[k] s) :=
  iterate_keeps (P := SameButMem s) (fun _ h => h.poke _ _) (SameButMem.refl s) k

theorem lyTick_iterate_sameButMem (s : State) (k : Nat) : SameButMem s (lyTick^[k] s) :=
  iterate_keeps (P := SameButMem s) (fun _ h => h.poke _ _) (SameButMem.refl s) k

/-- Iterated DIV increments change no other byte. -/
theorem divTick_iterate_peek_ne (s : State) (k : Nat) {x : Word} (hx : x ≠ s.params.io.div) :
    (divTick^[k] s).peek x = s.peek x := by
  have h := iterate_keeps (P := fun t => t.params = s.params ∧ t.peek x = s.peek x) (tick := divTick)
    (fun t ht => ⟨ht.1, by rw [divTick, State.peek_poke_ne _ _ (ht.1 ▸ hx), ht.2]⟩) ⟨rfl, rfl⟩ k
  exact h.2

/-- Iterated TIMA increments change no other byte. -/
theorem timaTick_iterate_peek_ne (s : State) (k : Nat) {x : Word} (hx : x ≠ s.params.io.tima) :
    (timaTick^[k] s).peek x = s.peek x := by
  have h := iterate_keeps (P := fun t => t.params = s.params ∧ t.peek x = s.peek x) (tick := timaTick)
    (fun t ht => ⟨ht.1, by rw [timaTick, State.peek_poke_ne _ _ (ht.1 ▸ hx), ht.2]⟩) ⟨rfl, rfl⟩ k
  exact h.2

/-- Iterated LY increments change no other byte. -/
theorem lyTick_iterate_peek_ne (s : State) (k : Nat) {x : Word} (hx : x ≠ s.params.io.ly) :
    (lyTick^[k] s).peek x = s.peek x := by
  have h := iterate_keeps (P := fun t => t.params = s.params ∧ t.peek x = s.peek x) (tick := lyTick)
    (fun t ht => ⟨ht.1, by rw [lyTick, State.peek_poke_ne _ _ (ht.1 ▸ hx), ht.2]⟩) ⟨rfl, rfl⟩ k
  exact h.2

end Sys2Proof.Machine
end

