-- ==== Sys2Proof/Laws/Reset.lean ====
section
/-! SUPPORT. The store reset builds (10_state.md R42, 70_reset_and_hazards.md R260 (2)), byte by byte, and that it is in the
canonical form and lists no byte of the echo or unusable range. -/

namespace Sys2Proof.Machine

theorem initAddress_iff (a : Nat) : initAddress a = true ↔
    0x8000 ≤ a ∧ a ≤ 0xFFFF ∧ ¬ (0xE000 ≤ a ∧ a ≤ 0xFDFF) ∧ ¬ (0xFEA0 ≤ a ∧ a ≤ 0xFEFF) := by
  simp only [initAddress, Bool.and_eq_true, Bool.not_eq_true', Bool.and_eq_false_iff, decide_eq_true_eq,
    decide_eq_false_iff_not]
  omega

/-- The byte INIT_RAM leaves at an address: the one its cells give, where it fills the address (R42). -/
theorem initStore_read (cells : Memory) (a : Nat) :
    Memory.read (initStore cells) a = if initAddress a = true then cells.read a else unlistedByte := by
  induction cells with
  | nil => simp [initStore, Memory.read]
  | cons cell rest ih =>
    obtain ⟨k, v⟩ := cell
    by_cases hk : initAddress k = true
    · have he : initStore ((k, v) :: rest) = (initStore rest).write k v := by simp [initStore, hk]
      rw [he, Memory.read_write, ih]
      by_cases ha : a = k
      · subst ha
        simp [hk, Memory.read]
      · simp [ha, Ne.symm ha, Memory.read]
    · have he : initStore ((k, v) :: rest) = initStore rest := by simp [initStore, hk]
      rw [he, ih]
      by_cases ha : k = a
      · subst ha
        simp [hk]
      · simp [ha, Memory.read]

/-- The byte of the store reset builds at an address, the TAC byte not yet masked: the ROM image's, else the external RAM
image's, else INIT_RAM's (R42, R74). -/
theorem imageStore_read (args : ResetArgs) (a : Nat) :
    Memory.read (imageStore args) a
      = if a < args.rom.length then args.rom.getD a 0#8
        else if 0xA000 ≤ a ∧ a < 0xA000 + (args.eram.getD []).length then (args.eram.getD []).getD (a - 0xA000) 0#8
        else if initAddress a = true then args.initRam.read a else unlistedByte := by
  simp only [imageStore, Memory.read_load, initStore_read, Nat.zero_le, true_and, Nat.zero_add, Nat.sub_zero]

/-- The canonical form, with no byte of the echo or unusable range listed (R30). -/
def CleanStore (m : Memory) : Prop := m.wf ∧ Memory.NoDeadCell m

/-- A write outside the two ranges keeps a store clean. -/
theorem CleanStore.write {m : Memory} (h : CleanStore m) {a : Nat} (ha : a < 65536)
    (he : ¬ (0xE000 ≤ a ∧ a ≤ 0xFDFF)) (hu : ¬ (0xFEA0 ≤ a ∧ a ≤ 0xFEFF)) (v : Byte) : CleanStore (m.write a v) := by
  refine ⟨Memory.wf_write h.1 ha v, fun cell hc => ?_⟩
  rcases Memory.mem_write hc with ⟨rfl, -⟩ | hc
  · exact ⟨he, hu⟩
  · exact h.2 cell hc

/-- A load of a run of bytes below the echo range keeps a store clean. -/
theorem CleanStore.load {m : Memory} (h : CleanStore m) {base : Nat} {bytes : List Byte}
    (hb : base + bytes.length ≤ 0xE000) : CleanStore (m.load base bytes) := by
  induction bytes generalizing m base with
  | nil => exact h
  | cons v rest ih =>
    simp only [List.length_cons] at hb
    exact ih (h.write (by omega) (by omega) (by omega) v) (by omega)

/-- INIT_RAM as a store is clean. -/
theorem initStore_clean (cells : Memory) : CleanStore (initStore cells) := by
  induction cells with
  | nil => exact ⟨by decide, by intro cell hc; cases hc⟩
  | cons cell rest ih =>
    obtain ⟨k, v⟩ := cell
    by_cases hk : initAddress k = true
    · have he : initStore ((k, v) :: rest) = (initStore rest).write k v := by simp [initStore, hk]
      obtain ⟨-, h2, h3, h4⟩ := (initAddress_iff k).mp hk
      rw [he]
      exact ih.write (by omega) h3 h4 v
    · have he : initStore ((k, v) :: rest) = initStore rest := by simp [initStore, hk]
      rw [he]
      exact ih

/-- With images of the right size the store reset builds is clean. -/
theorem imageStore_clean {args : ResetArgs} (hrom : args.rom.length = 32768)
    (heram : (args.eram.getD []).length ≤ 8192) : CleanStore (imageStore args) :=
  ((initStore_clean _).load (by omega)).load (by omega)

end Sys2Proof.Machine
end

