-- ==== Sys2Proof/Laws/Run.lean ====
section
/-! SUPPORT. The run of the host's interface, one step at a time, and the induction over it said once. -/

namespace Sys2Proof.Machine

/-- A run of one step more that answers a next state makes its first step and then the rest. -/
theorem run_succ_next {n : Nat} {s t : State} (h : core.run (n + 1) s = .next t) :
    ∃ u, step s = .next u ∧ core.run n u = .next t := by
  simp only [Host.Core.run] at h
  split at h
  · next u hu => exact ⟨u, hu, h⟩
  · cases h
  · cases h

/-- A run ends where its first step faults (60_exceptions.md R207 (3), R208). -/
theorem run_succ_fault {n : Nat} {s : State} {f : Fault} (h : step s = .fault f) : core.run (n + 1) s = .fault f := by
  have hc : core.step s = .fault f := h
  simp only [Host.Core.run, hc]

/-- What every step keeps, a run keeps. -/
theorem run_keeps {R : State → State → Prop} (hrefl : ∀ s, R s s) (hstep : ∀ s t u, step s = .next t → R t u → R s u)
    (n : Nat) {s t : State} (h : core.run n s = .next t) : R s t := by
  induction n generalizing s with
  | zero =>
    cases h
    exact hrefl _
  | succ n ih =>
    obtain ⟨u, hu, hr⟩ := run_succ_next h
    exact hstep s u t hu (ih hr)

end Sys2Proof.Machine
end

