-- ==== Sys2Proof/Tests/Slice0.lean ====
section
/-! SUPPORT. The model's own tests: the well-formedness smoke test, decodings of words written out from 30_encoding.md,
single steps whose results stand in 95_test_vectors.md or in the rule named, and for every obligation with hypotheses a
concrete case that meets them. -/

namespace Sys2Proof.Tests

open Sys2Proof.Machine Sys2Proof.Claims

/-! ### Helpers -/

/-- The state of an outcome, if it is one. -/
def nextOf {σ : Type} : Host.Outcome σ Fault Refusal → Option σ
  | .next s => some s
  | .fault _ => none
  | .refused _ => none

/-- The fault of an outcome, if it is one. -/
def faultOf {σ : Type} : Host.Outcome σ Fault Refusal → Option Fault
  | .next _ => none
  | .fault f => some f
  | .refused _ => none

/-- The address a ReadOnlyViolation carries. -/
def readOnlyAt : Fault → Option Word
  | .readOnlyViolation addr _ => some addr
  | _ => none

/-- The start state most vectors of 95_test_vectors.md use: PC = 0x0100, SP = 0xFFFE, all else zero. -/
def start : State := { State.reset with pc := 0x0100#16, sp := 0xFFFE#16 }

/-- `start` with other values of A and F. -/
def startAF (a f : Byte) : State := { start with a := a, f := f }

/-- `start` with another SP. -/
def startSp (sp : Word) : State := { start with sp := sp }

/-- A state with bytes of the store set. -/
def withBytes (s : State) (cells : List (Word × Byte)) : State := cells.foldl (fun t c => t.poke c.1 c.2) s

/-- A state whose next step runs a HALT at the reset PC. -/
def haltAtReset : State := State.reset.withFetchWord 8 0x76


/-! ### Well-formedness: one ill-formed record for each check -/

/-- R101: "`mnemonic` | one of the sixteen". -/
theorem test_wf_mnemonic : Record.wf { mnemonic := .other "NOP", length := 1, operand := .none } = false := by decide

/-- R100: the length is the encoded one. -/
theorem test_wf_length : Record.wf { mnemonic := .known .halt, length := 2, operand := .none } = false := by decide

/-- R101: the operand has the mnemonic's type. -/
theorem test_wf_operand_type : Record.wf { mnemonic := .known .add, length := 2, operand := .rel8 0#8 } = false := by
  decide

/-- R101: an instruction without operand has none. -/
theorem test_wf_operand_absent : Record.wf { mnemonic := .known .ret, length := 1, operand := .imm8 0#8 } = false := by
  decide

/-- R103: "F has no code", as destination or source. -/
theorem test_wf_flag_operand : Record.wf { mnemonic := .known .ldRR, length := 1, operand := .regs .f .a } = false ∧
    Record.wf { mnemonic := .known .ldRR, length := 1, operand := .regs .a .f } = false := by decide

/-- A record decode builds is well formed. -/
theorem test_wf_decoded : Instr.wf (.call 0x0108#16) = true ∧ Instr.wf .ldBC = true := by decide

/-! ### Decoding: words written bit by bit from R102, R103, R107 and R108 -/

theorem test_decode_ld_b_row :
    [decodeTableWord 8 0b01000000, decodeTableWord 8 0b01000001, decodeTableWord 8 0b01000010,
     decodeTableWord 8 0b01000011, decodeTableWord 8 0b01000100, decodeTableWord 8 0b01000101,
     decodeTableWord 8 0b01000111]
      = [some .ldBB, some .ldBC, some .ldBD, some .ldBE, some .ldBH, some .ldBL, some .ldBA] := by decide

theorem test_decode_ld_c_row :
    [decodeTableWord 8 0b01001000, decodeTableWord 8 0b01001001, decodeTableWord 8 0b01001010,
     decodeTableWord 8 0b01001011, decodeTableWord 8 0b01001100, decodeTableWord 8 0b01001101,
     decodeTableWord 8 0b01001111]
      = [some .ldCB, some .ldCC, some .ldCD, some .ldCE, some .ldCH, some .ldCL, some .ldCA] := by decide

theorem test_decode_ld_d_row :
    [decodeTableWord 8 0b01010000, decodeTableWord 8 0b01010001, decodeTableWord 8 0b01010010,
     decodeTableWord 8 0b01010011, decodeTableWord 8 0b01010100, decodeTableWord 8 0b01010101,
     decodeTableWord 8 0b01010111]
      = [some .ldDB, some .ldDC, some .ldDD, some .ldDE, some .ldDH, some .ldDL, some .ldDA] := by decide

theorem test_decode_ld_e_row :
    [decodeTableWord 8 0b01011000, decodeTableWord 8 0b01011001, decodeTableWord 8 0b01011010,
     decodeTableWord 8 0b01011011, decodeTableWord 8 0b01011100, decodeTableWord 8 0b01011101,
     decodeTableWord 8 0b01011111]
      = [some .ldEB, some .ldEC, some .ldED, some .ldEE, some .ldEH, some .ldEL, some .ldEA] := by decide

theorem test_decode_ld_h_row :
    [decodeTableWord 8 0b01100000, decodeTableWord 8 0b01100001, decodeTableWord 8 0b01100010,
     decodeTableWord 8 0b01100011, decodeTableWord 8 0b01100100, decodeTableWord 8 0b01100101,
     decodeTableWord 8 0b01100111]
      = [some .ldHB, some .ldHC, some .ldHD, some .ldHE, some .ldHH, some .ldHL, some .ldHA] := by decide

theorem test_decode_ld_l_row :
    [decodeTableWord 8 0b01101000, decodeTableWord 8 0b01101001, decodeTableWord 8 0b01101010,
     decodeTableWord 8 0b01101011, decodeTableWord 8 0b01101100, decodeTableWord 8 0b01101101,
     decodeTableWord 8 0b01101111]
      = [some .ldLB, some .ldLC, some .ldLD, some .ldLE, some .ldLH, some .ldLL, some .ldLA] := by decide

theorem test_decode_ld_a_row :
    [decodeTableWord 8 0b01111000, decodeTableWord 8 0b01111001, decodeTableWord 8 0b01111010,
     decodeTableWord 8 0b01111011, decodeTableWord 8 0b01111100, decodeTableWord 8 0b01111101,
     decodeTableWord 8 0b01111111]
      = [some .ldAB, some .ldAC, some .ldAD, some .ldAE, some .ldAH, some .ldAL, some .ldAA] := by decide

/-- The immediate forms of R107: opcode byte first, the operand 0xA5 in bits 15 to 8. -/
theorem test_decode_immediate :
    [decodeTableWord 16 0b1010010111000110, decodeTableWord 16 0b1010010111010110,
     decodeTableWord 16 0b1010010111100110, decodeTableWord 16 0b1010010111110110,
     decodeTableWord 16 0b1010010111101110, decodeTableWord 16 0b1010010100111110]
      = [some (.addAn 0xA5#8), some (.subAn 0xA5#8), some (.andAn 0xA5#8), some (.orAn 0xA5#8), some (.xorAn 0xA5#8),
         some (.ldAn 0xA5#8)] := by decide

/-- R107: INC A, DEC A, HALT, RET. -/
theorem test_decode_one_byte :
    [decodeTableWord 8 0b00111100, decodeTableWord 8 0b00111101, decodeTableWord 8 0b01110110,
     decodeTableWord 8 0b11001001] = [some .incA, some .decA, some .halt, some .ret] := by decide

/-- R107: LDH (0x07),A, LDH A,(0x44), JR 0xFE. -/
theorem test_decode_page_and_relative :
    [decodeTableWord 16 0b0000011111100000, decodeTableWord 16 0b0100010011110000,
     decodeTableWord 16 0b1111111000011000]
      = [some (.ldhStore 0x07#8), some (.ldhLoad 0x44#8), some (.jr 0xFE#8)] := by decide

/-- R105: "the bytes `CD 08 01` are CALL 0x0108", and `C3 50 01` is JP 0x0150: the low byte lies lower. -/
theorem test_decode_addr16 :
    [decodeTableWord 24 0b000000010000100011001101, decodeTableWord 24 0b000000010101000011000011]
      = [some (.call 0x0108#16), some (.jp 0x0150#16)] := by decide

/-- 95_test_vectors.md 2.9: 00, 46, 70, CB and FF are no instructions. -/
theorem test_decode_refuses :
    [decodeTableWord 8 0x00, decodeTableWord 8 0x46, decodeTableWord 8 0x70, decodeTableWord 16 0x37CB,
     decodeTableWord 8 0xFF] = [none, none, none, none, none] := by decide

/-- A list that ends inside the instruction is none. -/
theorem test_decode_truncated : decode [0xCD#8, 0x08#8] = .error .truncated := by rfl

/-! ### Single instructions -/

/-- S4: "`A=0x0F; ADD A,0x01` → A=0x10, Z=0,N=0,H=1,C=0." -/
theorem test_add_source :
    (nextOf (exec (.addAn 0x01#8) (startAF 0x0F#8 0x00#8))).map (fun t => (t.a, t.f)) = some (0x10#8, 0x20#8) := by decide

/-- 95_test_vectors.md 2.1: Z from the low 8 bits. -/
theorem test_add_wraps :
    (nextOf (exec (.addAn 0x01#8) (startAF 0xFF#8 0x00#8))).map (fun t => (t.a, t.f)) = some (0x00#8, 0xB0#8) := by decide

/-- S5: "`A=0x00; SUB A,0x01` → A=0xFF, Z=0,N=1,H=1,C=1." -/
theorem test_sub_source :
    (nextOf (exec (.subAn 0x01#8) (startAF 0x00#8 0x00#8))).map (fun t => (t.a, t.f)) = some (0xFF#8, 0x70#8) := by decide

/-- 95_test_vectors.md 2.2: borrow without half borrow. -/
theorem test_sub_borrow_alone :
    (nextOf (exec (.subAn 0x10#8) (startAF 0x01#8 0x00#8))).map (fun t => (t.a, t.f)) = some (0xF1#8, 0x50#8) := by decide

/-- 95_test_vectors.md 2.3. -/
theorem test_and_clears_carry :
    (nextOf (exec (.andAn 0x0F#8) (startAF 0xF0#8 0xF0#8))).map (fun t => (t.a, t.f)) = some (0x00#8, 0xA0#8) := by decide

/-- 95_test_vectors.md 2.3. -/
theorem test_or_keeps_no_flag :
    (nextOf (exec (.orAn 0x0F#8) (startAF 0xF0#8 0xF0#8))).map (fun t => (t.a, t.f)) = some (0xFF#8, 0x00#8) := by decide

/-- 95_test_vectors.md 2.3. -/
theorem test_xor_equal :
    (nextOf (exec (.xorAn 0xAA#8) (startAF 0xAA#8 0xF0#8))).map (fun t => (t.a, t.f)) = some (0x00#8, 0x80#8) := by decide

/-- 95_test_vectors.md 2.4. -/
theorem test_inc_keeps_carry :
    (nextOf (exec .incA (startAF 0xFF#8 0x10#8))).map (fun t => (t.a, t.f)) = some (0x00#8, 0xB0#8) := by decide

/-- 95_test_vectors.md 2.4. -/
theorem test_inc_makes_no_carry :
    (nextOf (exec .incA (startAF 0xFF#8 0x00#8))).map (fun t => (t.a, t.f)) = some (0x00#8, 0xA0#8) := by decide

/-- 95_test_vectors.md 2.4. -/
theorem test_dec_keeps_carry :
    (nextOf (exec .decA (startAF 0x01#8 0x10#8))).map (fun t => (t.a, t.f)) = some (0x00#8, 0xD0#8) := by decide

/-- 95_test_vectors.md 2.4. -/
theorem test_dec_makes_no_carry :
    (nextOf (exec .decA (startAF 0x00#8 0x00#8))).map (fun t => (t.a, t.f)) = some (0xFF#8, 0x60#8) := by decide

/-- 95_test_vectors.md 2.5. -/
theorem test_load_immediate_keeps_flags :
    (nextOf (exec (.ldAn 0xFF#8) (startAF 0x00#8 0xB0#8))).map (fun t => (t.a, t.f)) = some (0xFF#8, 0xB0#8) := by decide

/-- R150: in a state where every register holds another value, each of the 49 copies puts the source's value into the
destination, rows and columns in the order of R108. -/
theorem test_copies :
    ([.ldBB, .ldBC, .ldBD, .ldBE, .ldBH, .ldBL, .ldBA, .ldCB, .ldCC, .ldCD, .ldCE, .ldCH, .ldCL, .ldCA, .ldDB, .ldDC,
      .ldDD, .ldDE, .ldDH, .ldDL, .ldDA, .ldEB, .ldEC, .ldED, .ldEE, .ldEH, .ldEL, .ldEA, .ldHB, .ldHC, .ldHD, .ldHE,
      .ldHH, .ldHL, .ldHA, .ldLB, .ldLC, .ldLD, .ldLE, .ldLH, .ldLL, .ldLA, .ldAB, .ldAC, .ldAD, .ldAE, .ldAH, .ldAL,
      .ldAA].map fun i => (nextOf (exec i { start with
        b := 1#8, c := 2#8, d := 3#8, e := 4#8, h := 5#8, l := 6#8, a := 7#8 })).map fun t =>
          [t.b, t.c, t.d, t.e, t.h, t.l, t.a])
      = (List.range 49).map fun k =>
          some (([1#8, 2#8, 3#8, 4#8, 5#8, 6#8, 7#8] : List Byte).set (k / 7) (BitVec.ofNat 8 (k % 7 + 1))) := by
  decide +kernel

/-- 95_test_vectors.md 2.5: TAC is masked; at LY the step faults and PC stays. -/
theorem test_store_high :
    (nextOf (exec (.ldhStore 0x07#8) (startAF 0xFD#8 0#8))).map (fun t => (t.peek 0xFF07#16, t.pc))
      = some (0x05#8, 0x0102#16) ∧
    (faultOf (exec (.ldhStore 0x44#8) (startAF 0x01#8 0#8))).map (fun f => (readOnlyAt f, f.left.pc))
      = some (some 0xFF44#16, 0x0100#16) := by decide

/-- 95_test_vectors.md 2.5: a write to DIV clears DIV and `div_acc`; the step's own 12 cycles are counted after it. -/
theorem test_store_divider :
    (nextOf (step (State.withFetchWord (withBytes { startAF 0x99#8 0#8 with divAcc := 200 } [(0xFF04#16, 0x37#8)])
      16 0x04E0))).map (fun t => (t.peek 0xFF04#16, t.divAcc)) = some (0x00#8, 12) := by decide +kernel

/-- 95_test_vectors.md 2.5. -/
theorem test_load_high :
    (nextOf (exec (.ldhLoad 0x44#8) (withBytes start [(0xFF44#16, 0x91#8)]))).map (fun t => (t.a, t.pc))
      = some (0x91#8, 0x0102#16) := by decide

/-- 95_test_vectors.md 2.6. -/
theorem test_jump : (nextOf (exec (.jp 0xFFFF#16) start)).map (fun t => t.pc) = some 0xFFFF#16 := by decide

/-- 95_test_vectors.md 2.6: JR at 0x0010 with 80, for both values of JR_BASE. -/
theorem test_jump_relative :
    (nextOf (exec (.jr 0x80#8) { start with pc := 0x0010#16 })).map (fun t => t.pc) = some 0xFF90#16 ∧
    (nextOf (exec (.jr 0x80#8) { start with
      pc := 0x0010#16, params := { defaultParams with jrBase := .afterInstruction } })).map (fun t => t.pc)
      = some 0xFF92#16 := by decide

/-- S6: CALL 0x0200 at 0x0100 with SP = 0xFFFE. -/
theorem test_call :
    (nextOf (exec (.call 0x0200#16) start)).map (fun t => (t.pc, t.sp, t.peek 0xFFFD#16, t.peek 0xFFFC#16))
      = some (0x0200#16, 0xFFFC#16, 0x01#8, 0x03#8) := by decide

/-- P7: the second push faults at 0x7FFF, SP and the high byte left as they are, PC unchanged. -/
theorem test_call_faults :
    (faultOf (exec (.call 0x0106#16) (startSp 0x8001#16))).map
      (fun f => (readOnlyAt f, f.left.sp, f.left.pc, f.left.peek 0x8000#16))
      = some (some 0x7FFF#16, 0x7FFF#16, 0x0100#16, 0x01#8) := by decide

/-- 95_test_vectors.md 2.6: RET reads through the echo range, and 0xFFFF from the unusable range. -/
theorem test_return :
    (nextOf (exec .ret (withBytes (startSp 0xE000#16) [(0xC000#16, 0x34#8), (0xC001#16, 0x12#8)]))).map
      (fun t => (t.pc, t.sp)) = some (0x1234#16, 0xE002#16) ∧
    (nextOf (exec .ret (startSp 0xFEA0#16))).map (fun t => (t.pc, t.sp)) = some (0xFFFF#16, 0xFEA2#16) := by decide

/-- R190, R26: HALT at 0xFFFF only moves PC, which wraps. -/
theorem test_halt :
    nextOf (exec .halt { start with pc := 0xFFFF#16 }) = some { start with pc := 0x0000#16 } := by decide

/-! ### Fetch and the step -/

/-- 95_test_vectors.md 2.9: an instruction that starts at 0xFFFF goes on at 0x0000. -/
theorem test_fetch_wraps :
    (nextOf (step (withBytes { start with pc := 0xFFFF#16 } [(0xFFFF#16, 0x3E#8), (0x0000#16, 0x12#8)]))).map
      (fun t => (t.a, t.pc)) = some (0x12#8, 0x0001#16) := by decide +kernel

/-- 95_test_vectors.md 2.9: fetch through the echo range; a fetch from the unusable range reads 0xFF. -/
theorem test_fetch_regions :
    (nextOf (step (withBytes { start with pc := 0xE000#16 } [(0xC000#16, 0x76#8)]))).map (fun t => t.pc)
      = some 0xE001#16 ∧
    faultOf (step { start with pc := 0xFEA0#16 })
      = some (.unsupportedOpcode (.opcode 0xFF#8) { start with pc := 0xFEA0#16 }) := by decide +kernel

/-- P3, second step: `LDH (0x07),A` with A = 5 counts its own 12 cycles into `tima_acc`. -/
theorem test_step_enables_timer :
    (nextOf (step (State.withFetchWord { startAF 0x05#8 0#8 with divAcc := 8 } 16 0x07E0))).map
      (fun t => (t.peek 0xFF07#16, t.timaAcc, t.divAcc)) = some (0x05#8, 12, 20) := by decide +kernel

/-- P4, second step: `LDH (0x40),A` with A = 0x80 switches the LCD on for its own 12 cycles. -/
theorem test_step_enables_scanline :
    (nextOf (step (State.withFetchWord (startAF 0x80#8 0#8) 16 0x40E0))).map
      (fun t => (t.peek 0xFF40#16, t.lyAcc, t.peek 0xFF44#16)) = some (0x80#8, 12, 0x00#8) := by decide +kernel

/-- `withFetchWord` places the instruction where the step fetches it: the first step from reset runs it. -/
theorem test_withFetchWord :
    (nextOf (step (State.reset.withFetchWord 16 0x123E))).map (fun t => (t.a, t.pc)) = some (0x12#8, 0x0002#16) := by
  decide +kernel

/-! ### The bus and the host port -/

/-- 95_test_vectors.md 2.8: the last echo address, and the dropped write. -/
theorem test_bus_write :
    (nextOf (busWrite 0xFDFF#16 0x11#8 start)).map (fun t => busRead 0xDDFF#16 t) = some 0x11#8 ∧
    (nextOf (busWrite 0xFEFF#16 0x33#8 start)).map (fun t => (busRead 0xFEFF#16 t, t.mem)) = some (0xFF#8, []) := by
  decide

/-- 95_test_vectors.md 2.8: the value is checked before the drop and before the region; an address outside the space. -/
theorem test_host_port :
    faultOf (hostWrite 0xFEA0 256 start) = some (.invalidValue 256 start) ∧
    faultOf (hostWrite 0x0000 300 start) = some (.invalidValue 300 start) ∧
    faultOf (hostRead 0x10000 start) = some (.invalidAddress 0x10000 start) := by decide

/-- R246, R245: SetReg masks, the snapshot reports. -/
theorem test_set_reg :
    (snapshot (setReg (.reg8 .f) 0xFF start)).f = 0xF0#8 ∧ (snapshot (setReg .pc (-1) start)).pc = 0xFFFF#16 ∧
    (snapshot (setReg (.reg8 .b) 0x1FF start)).b = 0xFF#8 := by decide

/-- R195: the record's own length is the one used; an operand of the wrong type is refused (U10). -/
theorem test_direct_execution :
    (nextOf (directExecute { mnemonic := .known .call, length := 2, operand := .addr16 0x0200#16 } start)).map
      (fun r => (r.1.pc, r.1.peek 0xFFFC#16, r.2)) = some (0x0200#16, 0x02#8, 24) ∧
    directExecute { mnemonic := .known .add, length := 2, operand := .none } start = .refused .malformedRecord := by
  exact ⟨by decide, rfl⟩

/-! ### The peripherals -/

/-- 95_test_vectors.md 2.10: the reload is tested per increment. -/
theorem test_timer_reload :
    (timerStep 32 (withBytes start [(0xFF07#16, 0x05#8), (0xFF05#16, 0xFF#8), (0xFF06#16, 0x42#8)])).peek 0xFF05#16
      = 0x43#8 := by decide +kernel

/-- 95_test_vectors.md 2.10: 1000 cycles with the timer off. -/
theorem test_timer_off :
    (fun t : State => (t.peek 0xFF04#16, t.divAcc, t.peek 0xFF05#16, t.timaAcc))
      (timerStep 1000 (withBytes { start with timaAcc := 9 } [(0xFF05#16, 0x07#8)])) = (0x03#8, 232, 0x07#8, 9) := by
  decide +kernel

/-- 95_test_vectors.md 2.10: 63 increments after a change to a shorter period. -/
theorem test_timer_shorter_period :
    (fun t : State => (t.peek 0xFF05#16, t.timaAcc))
      (timerStep 8 (withBytes { start with timaAcc := 1000 } [(0xFF07#16, 0x05#8)])) = (0x3F#8, 0) := by decide +kernel

/-- 95_test_vectors.md 2.10: `TimerStep(0)` leaves any state unchanged, also with `tima_acc` above the period (R225 (a),
log 20). -/
theorem test_timer_zero_count :
    (fun s : State => timerStep 0 s = s) (withBytes { start with timaAcc := 1000 } [(0xFF07#16, 0x05#8)]) := by decide

/-- 95_test_vectors.md 2.11: the line after 153 is 0; the threshold is met at 456. -/
theorem test_scanline_on :
    (fun t : State => (t.peek 0xFF44#16, t.lyAcc))
      (scanlineTick 456 (withBytes start [(0xFF40#16, 0x80#8), (0xFF44#16, 153#8)])) = (0#8, 0) ∧
    (fun t : State => (t.peek 0xFF44#16, t.lyAcc))
      (scanlineTick 1000 (withBytes start [(0xFF40#16, 0x80#8)])) = (2#8, 88) := by decide +kernel

/-- 95_test_vectors.md 2.11: only bit 7 counts. -/
theorem test_scanline_off :
    (fun t : State => (t.peek 0xFF44#16, t.lyAcc))
      (scanlineTick 5000 (withBytes { start with lyAcc := 300 } [(0xFF40#16, 0x7F#8), (0xFF44#16, 77#8)]))
      = (0#8, 0) := by decide +kernel

/-! ### Witnesses: every obligation with hypotheses, and every clause of one, has a case that meets them -/

theorem test_witness_EncodeOfDecodeIsIdentity :
    decode [0xC3#8, 0x50#8, 0x01#8, 0x76#8] = .ok (.jp 0x0150#16, [0x76#8]) := rfl

theorem test_witness_UnsupportedBytesFaultAtDecode :
    unsupportedByte (busRead State.reset.pc State.reset).toNat = true ∧
    unsupportedByte (busRead haltAtReset.pc haltAtReset).toNat = false := by decide +kernel

/-- The first and last byte of each range of R110, and the bytes beside them. -/
theorem test_unsupported_boundaries :
    ([0x17, 0x19, 0x3B, 0x3F, 0x70, 0x75, 0x77, 0x80, 0xC2, 0xC8, 0xCA, 0xCC, 0xCE, 0xD5, 0xD7, 0xDF, 0xE1, 0xE5, 0xE7,
      0xED, 0xF1, 0xF5, 0xF7, 0xFF].map unsupportedByte).all (fun b => b) = true ∧
    ([0x18, 0x3C, 0x3E, 0x40, 0x6F, 0x76, 0x78, 0x7F, 0xC3, 0xC6, 0xC9, 0xCD, 0xD6, 0xE0, 0xE6, 0xEE, 0xF0, 0xF6].map
      unsupportedByte).any (fun b => b) = false := by decide

theorem test_witness_LoadRegisterOpcodeByte :
    Instr.operand .ldBB = .regs .b .b ∧ Instr.operand .ldAA = .regs .a .a ∧ Reg8.l ≠ .f ∧ Reg8.a ≠ .f := by decide

theorem test_witness_OpcodeByteDeterminesLength :
    decode (0xCD#8 :: [0x00#8, 0x02#8]) = .ok (.call 0x0200#16, []) ∧
    decode (0xCD#8 :: [0x08#8, 0x01#8, 0x76#8]) = .ok (.call 0x0108#16, [0x76#8]) := ⟨rfl, rfl⟩

theorem test_witness_StepRunsDecodedInstruction :
    (FetchesAs haltAtReset .halt ∧ ∃ t, exec .halt haltAtReset = .next t) ∧
    (FetchesAs (State.reset.withFetchWord 16 0x44E0) (.ldhStore 0x44#8) ∧
      ∃ f, exec (.ldhStore 0x44#8) (State.reset.withFetchWord 16 0x44E0) = .fault f) :=
  ⟨⟨⟨_, rfl⟩, _, rfl⟩, ⟨_, rfl⟩, _, rfl⟩

theorem test_witness_EngineStepReturnsFixedCost :
    ∃ t, engineStep haltAtReset = .next (t, 4) ∧ FetchesAs haltAtReset .halt ∧ exec .halt haltAtReset = .next t :=
  ⟨_, rfl, ⟨_, rfl⟩, rfl⟩

theorem test_witness_LoadRegisterResult :
    Instr.operand .ldDD = .regs .d .d ∧ Instr.operand .ldAB = .regs .a .b := by decide

/-- The page address at LY, and one below and above it. -/
theorem test_witness_LoadHighStoreResult :
    (0xFF00#16 + (0x44#8).setWidth 16 = start.params.io.ly ∧ start.params.WF) ∧
    0xFF00#16 + (0x43#8).setWidth 16 ≠ start.params.io.ly ∧ 0xFF00#16 + (0x45#8).setWidth 16 ≠ start.params.io.ly :=
  ⟨⟨by decide, defaultParams_wf⟩, by decide, by decide⟩

theorem test_witness_JumpRelativeResult :
    start.params.jrBase = .literal ∧
    ({ start with params := { defaultParams with jrBase := .afterInstruction } } : State).params.jrBase
      = .afterInstruction := by decide

/-- The pushes around the end of ROM and around LY: the first faults, the second alone faults, neither does. -/
theorem test_witness_CallResult :
    start.params.WF ∧
    (PushFaults defaultIoAddr (0x8000#16 - 1#16) ∧ PushFaults defaultIoAddr (0xFF45#16 - 1#16)) ∧
    (¬ PushFaults defaultIoAddr (0x8001#16 - 1#16) ∧ PushFaults defaultIoAddr (0x8001#16 - 2#16)) ∧
    (¬ PushFaults defaultIoAddr (0xFF46#16 - 1#16) ∧ PushFaults defaultIoAddr (0xFF46#16 - 2#16)) ∧
    (¬ PushFaults defaultIoAddr (0x8002#16 - 1#16) ∧ ¬ PushFaults defaultIoAddr (0x8002#16 - 2#16)) ∧
    (¬ PushFaults defaultIoAddr (0xFF47#16 - 1#16) ∧ ¬ PushFaults defaultIoAddr (0xFF47#16 - 2#16)) :=
  ⟨defaultParams_wf, by decide, by decide, by decide, by decide, by decide⟩

theorem test_witness_PopUndoesPush :
    start.params.WF ∧ Plain defaultIoAddr (0x8002#16 - 1#16) ∧ Plain defaultIoAddr (0x8002#16 - 2#16) ∧
    Plain defaultIoAddr (0x0000#16 - 1#16) ∧ Plain defaultIoAddr (0x0000#16 - 2#16) :=
  ⟨defaultParams_wf, by decide, by decide, by decide, by decide⟩

/-- A next state of an instruction that only advances PC, and a fault of each instruction that can. -/
theorem test_witness_PcAdvancesByLength :
    (∃ t, exec .halt start = .next t) ∧ Instr.mnemonic .halt ≠ .jp ∧ Instr.mnemonic .halt ≠ .jr ∧
    Instr.mnemonic .halt ≠ .call ∧ Instr.mnemonic .halt ≠ .ret ∧ (∃ f, exec (.ldhStore 0x44#8) start = .fault f) ∧
    ∃ f, exec (.call 0x0200#16) (startSp 0x8000#16) = .fault f :=
  ⟨⟨_, rfl⟩, by decide, by decide, by decide, by decide, ⟨_, rfl⟩, _, rfl⟩

theorem test_witness_RegistersWrittenAsTabulated :
    (∃ t, exec .ldBC start = .next t) ∧ ¬ Writes .ldBC .a ∧ (∃ t, exec (.call 0x0200#16) start = .next t) ∧
    (∃ t, exec .ret start = .next t) ∧ ¬ Writes .ret .a :=
  ⟨⟨_, rfl⟩, by rintro (⟨-, h⟩ | ⟨h, -⟩ | ⟨src, h⟩) <;> simp [isAlu, Instr.mnemonic, Instr.operand] at h, ⟨_, rfl⟩,
    ⟨_, rfl⟩, by rintro (⟨-, h⟩ | ⟨h, -⟩ | ⟨src, h⟩) <;> simp [isAlu, Instr.mnemonic, Instr.operand] at h⟩

theorem test_witness_OnlyCallAndLoadHighStore :
    (∃ t, exec (.addAn 1#8) start = .next t) ∧ (∃ t, exec (.ldhStore 0x80#8) start = .next t) ∧
    (∀ n, Instr.ldhStore 0x80#8 = .ldhStore n → 0xFF81#16 ≠ 0xFF00#16 + n.setWidth 16) ∧
    (∃ t, exec (.call 0x0200#16) start = .next t) ∧
    0xFFFB#16 ≠ target (start.sp - 1#16) ∧ 0xFFFB#16 ≠ target (start.sp - 2#16) :=
  ⟨⟨_, rfl⟩, ⟨_, rfl⟩, by intro n h; cases h; decide, ⟨_, rfl⟩, by decide, by decide⟩

theorem test_witness_StackPointerKeepsParity : ∃ t, core.run 1 haltAtReset = .next t := ⟨_, rfl⟩

theorem test_witness_FaultsPerInstruction :
    (∃ f, exec (.ldhStore 0x44#8) start = .fault f) ∧ (∃ f, exec (.call 0x0200#16) (startSp 0x8000#16) = .fault f) ∧
    (∃ f, exec (.call 0x0200#16) (startSp 0x8001#16) = .fault f) ∧ (∃ f, step State.reset = .fault f) ∧
    ∃ f, step (State.reset.withFetchWord 16 0x44E0) = .fault f :=
  ⟨⟨_, rfl⟩, ⟨_, rfl⟩, ⟨_, rfl⟩, ⟨_, rfl⟩, _, rfl⟩

/-- A fault at decode, at the first push of a CALL and at its second. -/
theorem test_witness_FaultLeavesStateUnrolled :
    (∃ f, step State.reset = .fault f) ∧
    (∃ f, step (State.withFetchWord (startSp 0x8000#16) 24 0x0200CD) = .fault f) ∧
    ∃ f, step (State.withFetchWord (startSp 0x8001#16) 24 0x0200CD) = .fault f :=
  ⟨⟨_, rfl⟩, ⟨_, rfl⟩, _, rfl⟩

theorem test_witness_BusReadGivesStoredByte :
    Unusable 0xFEA0#16 ∧ Unusable 0xFEFF#16 ∧ ¬ Unusable 0xFE9F#16 ∧ ¬ Unusable 0xFF00#16 := by decide

/-- The first and last address of each clause. -/
theorem test_witness_BusLaws :
    start.params.WF ∧ Plain defaultIoAddr 0x8000#16 ∧ Plain defaultIoAddr 0xFE9F#16 ∧ Plain defaultIoAddr 0xFF00#16 ∧
    Plain defaultIoAddr 0xFFFF#16 ∧ Plain defaultIoAddr 0xFF43#16 ∧ Plain defaultIoAddr 0xFF45#16 ∧
    0xFF04#16 = defaultIoAddr.div ∧ 0xFF07#16 = defaultIoAddr.tac ∧ 0xFF44#16 = defaultIoAddr.ly ∧
    (0x0000#16).toNat < 0x8000 ∧ (0x7FFF#16).toNat < 0x8000 ∧
    (0xE000 ≤ (0xE000#16).toNat ∧ (0xE000#16).toNat ≤ 0xFDFF) ∧ 0xE000 ≤ (0xFDFF#16).toNat ∧
    (0xFDFF#16).toNat ≤ 0xFDFF :=
  ⟨defaultParams_wf, by decide, by decide, by decide, by decide, by decide, by decide, rfl, rfl, rfl, by decide,
    by decide, by decide, by decide, by decide⟩

theorem test_witness_BusWriteChangesOneByte :
    ((∃ t, busWrite 0xFEA0#16 1#8 start = .next t) ∧ Unusable 0xFEA0#16) ∧
    (∃ t, busWrite 0xFDFF#16 1#8 start = .next t) ∧ target 0xFDFF#16 ≠ start.params.io.div ∧
    ∃ t, busWrite 0xFF04#16 1#8 start = .next t :=
  ⟨⟨⟨_, rfl⟩, by decide⟩, ⟨_, rfl⟩, by decide, _, rfl⟩

theorem test_witness_InvalidValueOnlyAtHostPort :
    ((-1 : Int) < 0 ∨ 255 < (-1 : Int)) ∧ ((256 : Int) < 0 ∨ 255 < (256 : Int)) := by decide

theorem test_witness_InvalidAddressOnlyAtHostPort :
    ((-1 : Int) < 0 ∨ 65535 < (-1 : Int)) ∧ ((65536 : Int) < 0 ∨ 65535 < (65536 : Int)) ∧
    ((0 : Int) ≤ 0 ∧ (0 : Int) ≤ 255) ∧ (0 : Int) ≤ 255 ∧ (255 : Int) ≤ 255 := by decide

theorem test_witness_SetRegMasks : Reg8.a ≠ .f ∧ Reg8.f ≠ .a ∧ Reg8.b ≠ .a := by decide

theorem test_witness_DirectExecutionAgrees :
    (∃ t, exec .halt start = .next t) ∧ (∃ f, exec (.ldhStore 0x44#8) start = .fault f) ∧
    (∃ t, directExecute { mnemonic := .known .halt, length := 5, operand := .none } start = .next (t, 4)) ∧
    (Mnemonic.halt ≠ .jp ∧ Mnemonic.halt ≠ .jr ∧ Mnemonic.halt ≠ .call ∧ Mnemonic.halt ≠ .ret) ∧
    start.params.WF ∧
    (¬ PushFaults defaultIoAddr (0x8001#16 - 1#16) ∧ PushFaults defaultIoAddr (0x8001#16 - 2#16)) ∧
    (¬ PushFaults defaultIoAddr (0x8002#16 - 1#16) ∧ ¬ PushFaults defaultIoAddr (0x8002#16 - 2#16)) :=
  ⟨⟨_, rfl⟩, ⟨_, rfl⟩, ⟨_, rfl⟩, by decide, defaultParams_wf, by decide, by decide⟩

/-- The Timer on and off. -/
theorem test_witness_TimerStepClosedForm :
    start.params.WF ∧ (start.peek start.params.io.tac).getLsbD 2 = false ∧
    ((withBytes start [(0xFF07#16, 0x04#8)]).peek start.params.io.tac).getLsbD 2 = true ∧
    0xFF06#16 ≠ start.params.io.div ∧ 0xFF06#16 ≠ start.params.io.tima :=
  ⟨defaultParams_wf, by decide, by decide, by decide, by decide⟩

/-- `tima_acc` at both ends of its range, TIMA at 0xFE and at 0xFF. -/
theorem test_witness_TimerUnitProperty :
    (withBytes start [(0xFF07#16, 0x05#8), (0xFF05#16, 0xFE#8)]).params.WF ∧
    (fun s : State => s.peek s.params.io.tac = 0x05#8 ∧ s.timaAcc ≤ 15 ∧ s.peek s.params.io.tima ≠ 0xFF#8)
      (withBytes start [(0xFF07#16, 0x05#8), (0xFF05#16, 0xFE#8)]) ∧
    (fun s : State => s.peek s.params.io.tac = 0x05#8 ∧ s.timaAcc ≤ 15 ∧ s.peek s.params.io.tima = 0xFF#8)
      (withBytes { start with timaAcc := 15 } [(0xFF07#16, 0x05#8), (0xFF05#16, 0xFF#8)]) :=
  ⟨defaultParams_wf, by decide, by decide⟩

/-- One and two increments, and TMA = 0xFF and below it. -/
theorem test_witness_TimaReloadsPerIncrement :
    0 < 31 ∧
    (fun s : State => (s.peek s.params.io.tac).getLsbD 2 = true ∧ s.peek s.params.io.tima = 0xFF#8 ∧
        (s.timaAcc + 31) / periodOf (s.peek s.params.io.tac) = 1 ∧
        (s.timaAcc + 32) / periodOf (s.peek s.params.io.tac) = 2 ∧ s.peek s.params.io.tma ≠ 0xFF#8)
      (withBytes start [(0xFF07#16, 0x05#8), (0xFF05#16, 0xFF#8), (0xFF06#16, 0xFE#8)]) ∧
    (fun s : State => (s.peek s.params.io.tac).getLsbD 2 = true ∧ s.peek s.params.io.tima = 0xFF#8 ∧
        (s.timaAcc + 47) / periodOf (s.peek s.params.io.tac) = 2 ∧ s.peek s.params.io.tma = 0xFF#8)
      (withBytes start [(0xFF07#16, 0x05#8), (0xFF05#16, 0xFF#8), (0xFF06#16, 0xFF#8)]) ∧
    (withBytes start [(0xFF07#16, 0x05#8), (0xFF05#16, 0xFF#8), (0xFF06#16, 0xFF#8)]).params.WF :=
  ⟨by decide, by decide, by decide, defaultParams_wf⟩

theorem test_witness_TimerStepsAdd : start.params.WF ∧ start.mem.wf ∧
    (withBytes start [(0xFF07#16, 0x05#8)]).mem.wf := ⟨defaultParams_wf, by decide, by decide⟩

/-- LY at 0 and at 153, the LCD on and off. -/
theorem test_witness_ScanlineTickClosedForm :
    (start.peek start.params.io.ly).toNat ≤ 153 ∧ (start.peek start.params.io.lcdc).getLsbD 7 = false ∧
    (fun s : State => (s.peek s.params.io.ly).toNat ≤ 153 ∧ (s.peek s.params.io.lcdc).getLsbD 7 = true)
      (withBytes start [(0xFF40#16, 0x80#8), (0xFF44#16, 153#8)]) := by decide

theorem test_witness_ScanlineTicksTotal :
    (withBytes start [(0xFF40#16, 0x80#8)]).params.WF ∧
    (fun s : State => (s.peek s.params.io.lcdc).getLsbD 7 = true ∧ s.peek s.params.io.ly = 0#8 ∧ s.lyAcc = 0)
      (withBytes start [(0xFF40#16, 0x80#8)]) := ⟨defaultParams_wf, by decide⟩

theorem test_witness_PeripheralsCommute :
    (withBytes start [(0xFF07#16, 0x05#8), (0xFF40#16, 0x80#8)]).params.WF ∧
    (withBytes start [(0xFF07#16, 0x05#8), (0xFF40#16, 0x80#8)]).mem.wf := ⟨defaultParams_wf, by decide⟩

theorem test_witness_PeripheralsTouchOnlyTheirOwn :
    0xFF06#16 ≠ start.params.io.div ∧ 0xFF06#16 ≠ start.params.io.tima ∧ 0xFF45#16 ≠ start.params.io.ly := by decide

/-- A ROM of HALTs, an external RAM image, an INIT_RAM and RESET_POSTBOOT: the arguments of a reset that answers. -/
def resetExample : ResetArgs where
  rom := List.replicate 32768 0x76#8
  eram := some (List.replicate 8192 0x55#8)
  initRam := [(0x8000, 0x11#8), (0xFF07, 0xFD#8), (0xFF44, 153#8), (0xFFFF, 0x22#8)]
  regs := resetPostBoot
  params := defaultParams

theorem test_resetExample_rom : resetExample.rom.length = 32768 := List.length_replicate

theorem test_resetExample_eram : ∀ bytes, resetExample.eram = some bytes → bytes.length = 8192 := by
  intro bytes h
  cases h
  exact List.length_replicate

theorem test_resetExample_sizes : resetExample.sizesOk = true := by
  simp only [ResetArgs.sizesOk, resetExample, List.length_replicate]
  rfl

theorem replicate_getD (n k : Nat) (v d : Byte) : (List.replicate n v).getD k d = if k < n then v else d := by
  by_cases h : k < n <;> simp [List.getD_eq_getElem?_getD, h]

/-- R42: INIT_RAM fills 0x8000, TAC, LY and IE, the external RAM image 0xA000, the ROM image 0x7FFF. -/
theorem test_resetExample_bytes :
    [0x7FFF, 0x8000, 0xA000, 0xFF07, 0xFF44, 0xFFFF].map (imageStore resetExample).read
      = [0x76#8, 0x11#8, 0x55#8, 0xFD#8, 153#8, 0x22#8] := by
  simp only [List.map_cons, List.map_nil, imageStore_read, resetExample, Option.getD_some, List.length_replicate,
    replicate_getD]
  rfl

theorem test_resetExample_ly : (imageStore resetExample).read 0xFF44 = 153#8 := by
  simp only [imageStore_read, resetExample, Option.getD_some, List.length_replicate]
  rfl

/-- R41: the TAC byte of INIT_RAM is 0xFD in the example and is masked to 0x05; one address of each end and each side of a
clause; and the arguments meet every condition under which reset answers. -/
theorem test_witness_ResetBuildsTheBlock :
    (∃ s, construct resetExample = .next s) ∧ resetExample.eram = some (List.replicate 8192 0x55#8) ∧
    (resetExample.rom.length = 32768 ∧ (∀ bytes, resetExample.eram = some bytes → bytes.length = 8192) ∧
      resetExample.params.WF ∧ resetExample.regs.WF ∧
      (resetExample.initRam.read resetExample.params.io.ly.toNat).toNat ≤ 153) ∧
    ({ resetExample with rom := [] } : ResetArgs).rom.length ≠ 32768 ∧
    (∃ bytes, ({ resetExample with eram := some [] } : ResetArgs).eram = some bytes ∧ bytes.length ≠ 8192) ∧
    (∀ a ∈ [0x8000, 0x9FFF, 0xC000, 0xDFFF, 0xFE00, 0xFE9F, 0xFF00, 0xFFFF], 0x8000 ≤ a ∧
      ¬ (0xA000 ≤ a ∧ a ≤ 0xBFFF) ∧ ¬ (0xE000 ≤ a ∧ a ≤ 0xFDFF) ∧ ¬ (0xFEA0 ≤ a ∧ a ≤ 0xFEFF) ∧
      a ≠ resetExample.params.io.tac.toNat) ∧
    (0 < 32768 ∧ 32767 < 32768) ∧ 8191 < 8192 := by
  have hw : resetExample.regs.WF := by decide
  have hp : resetExample.params.WF := defaultParams_wf
  have hi : (resetExample.initRam.read resetExample.params.io.ly.toNat).toNat ≤ 153 := by decide
  have hl : (Memory.read (imageStore resetExample) resetExample.params.io.ly.toNat).toNat ≤ 153 := by
    have he : Memory.read (imageStore resetExample) resetExample.params.io.ly.toNat = 153#8 := test_resetExample_ly
    rw [he]
    decide
  refine ⟨?_, rfl, ⟨test_resetExample_rom, test_resetExample_eram, hp, hw, hi⟩, by decide, ⟨[], rfl, by decide⟩,
    by decide, by decide, by decide⟩
  simp only [construct, test_resetExample_sizes, Bool.true_eq_false, if_false]
  rw [if_neg fun h => h ⟨hp, hw, hl⟩]
  exact ⟨_, rfl⟩

/-- The invariants hold at a state whose step answers. -/
theorem test_haltAtReset_inv : Inv haltAtReset where
  flagsLow := by decide
  tacHigh := by decide
  lyRange := by decide
  divRange := by decide
  lyAccRange := by decide
  params := defaultParams_wf
  memWf := by decide
  noDead := by decide

theorem test_witness_StepKeepsInvariant : Inv haltAtReset ∧ ∃ t, step haltAtReset = .next t :=
  ⟨test_haltAtReset_inv, _, rfl⟩

theorem test_witness_HostOperationsKeepInvariant :
    Inv haltAtReset ∧ (∃ t, hostWrite 0xFF04 255 haltAtReset = .next t) ∧
    (∃ t c, engineStep haltAtReset = .next (t, c)) ∧
    ∃ t, directExecute { mnemonic := .known .halt, length := 3, operand := .none } haltAtReset = .next (t, 4) :=
  ⟨test_haltAtReset_inv, ⟨_, rfl⟩, ⟨_, _, rfl⟩, _, rfl⟩

theorem test_witness_StepKeepsRomAndParameters : haltAtReset.params.WF ∧ ∃ t, step haltAtReset = .next t :=
  ⟨defaultParams_wf, _, rfl⟩

theorem test_witness_RunKeepsInvariantAndRom : Inv haltAtReset ∧ ∃ t, core.run 1 haltAtReset = .next t :=
  ⟨test_haltAtReset_inv, _, rfl⟩

theorem test_witness_FlagsDecideNothing :
    (∃ t, exec .incA (startAF 0xFF#8 0x10#8) = .next t) ∧ ∃ t, exec (.call 0x0200#16) start = .next t :=
  ⟨⟨_, rfl⟩, _, rfl⟩

theorem test_witness_EffectsIgnoreCycleCost :
    (∃ t, exec (.ldhStore 0x80#8) start = .next t) ∧ ∃ t, exec .ret start = .next t := ⟨⟨_, rfl⟩, _, rfl⟩

theorem test_witness_StepChangesNoOtherByte :
    FetchesAs haltAtReset .halt ∧ (∃ t, step haltAtReset = .next t) ∧ 0xFF06#16 ≠ haltAtReset.params.io.div ∧
    0xFF06#16 ≠ haltAtReset.params.io.tima ∧ 0xFF06#16 ≠ haltAtReset.params.io.ly :=
  ⟨⟨_, rfl⟩, ⟨_, rfl⟩, by decide, by decide, by decide⟩

end Sys2Proof.Tests
end

section
/-! Family 00_scope.md: every operation completes or faults (R8). -/

namespace Sys2Proof.Machine

/-- R8: an outcome that is no refusal is one of the other two. -/
theorem next_or_fault_of_not_refused {σ : Type} {o : Host.Outcome σ Fault Refusal} (h : ∀ r, o ≠ .refused r) :
    (∃ t, o = .next t) ∨ ∃ f, o = .fault f := by
  cases o with
  | next t => exact .inl ⟨t, rfl⟩
  | fault f => exact .inr ⟨f, rfl⟩
  | refused r => exact absurd rfl (h r)

/-- No engine step is refused (R8): outside the opcode map it faults (R204), and the instruction it executes is not refused. -/
theorem engineStep_not_refused (s : State) (r : Refusal) : engineStep s ≠ .refused r := by
  intro h
  rcases engineStep_cases s with ⟨-, he⟩ | ⟨i, -, -, he⟩
  · rw [he] at h
    cases h
  · rw [he] at h
    rcases andThen_eq_refused.mp h with hx | ⟨u, -, hu⟩
    · exact exec_not_refused i s r hx
    · cases hu

/-- No system step is refused (R8): after the engine step the two peripherals always answer a next state (R240). -/
theorem step_not_refused (s : State) (r : Refusal) : step s ≠ .refused r := by
  intro h
  rcases andThen_eq_refused.mp h with he | ⟨u, -, hu⟩
  · exact engineStep_not_refused s r he
  · cases hu

/-- Settles O31: `exec`, the engine step and the system step are never refused, so each completes or faults. -/
theorem everyOperationCompletesOrFaults : Obligations.EveryOperationCompletesOrFaults := by
  refine ⟨fun i s => next_or_fault_of_not_refused (exec_not_refused i s), fun s => ?_,
    fun s => next_or_fault_of_not_refused (step_not_refused s)⟩
  rcases next_or_fault_of_not_refused (engineStep_not_refused s) with ⟨⟨t, c⟩, h⟩ | hf
  · exact .inl ⟨t, c, h⟩
  · exact .inr hf

end Sys2Proof.Machine
end

section
/-! Family 10_state.md, the invariants of R44: one rule for each state operation, then for the bus, the stack, the
instructions and the peripherals. -/

namespace Sys2Proof

open Sys2Proof.Machine

variable {s : State}

theorem Inv.setPc (h : Inv s) (v : Word) : Inv (s.setPc v) := { h with }

theorem Inv.setSp (h : Inv s) (v : Word) : Inv (s.setSp v) := { h with }

theorem Inv.advance (h : Inv s) (n : Nat) : Inv (s.advance n) := { h with }

theorem Inv.setTimaAcc (h : Inv s) (n : Nat) : Inv (s.setTimaAcc n) := { h with }

theorem Inv.setDivAcc (h : Inv s) {n : Nat} (hn : n ≤ 255) : Inv (s.setDivAcc n) := { h with divRange := hn }

theorem Inv.setLyAcc (h : Inv s) {n : Nat} (hn : n ≤ 455) : Inv (s.setLyAcc n) := { h with lyAccRange := hn }

/-- A write of F stores its high nibble alone (R23); no other register is in an invariant. -/
theorem Inv.setReg8 (h : Inv s) (r : Reg8) (v : Byte) : Inv (s.setReg8 r v) := by
  cases r
  case f => exact { h with flagsLow := and_F0_and_0F v }
  all_goals exact { h with }

/-- A byte stored outside the echo and unusable ranges, which meets R33 at TAC and R35 at LY. -/
theorem Inv.poke (h : Inv s) {a : Word} {v : Byte} (he : ¬ (0xE000 ≤ a.toNat ∧ a.toNat ≤ 0xFDFF))
    (hu : ¬ (0xFEA0 ≤ a.toNat ∧ a.toNat ≤ 0xFEFF)) (htac : a = s.params.io.tac → v &&& 0xF8#8 = 0#8)
    (hly : a = s.params.io.ly → v.toNat ≤ 153) : Inv (s.poke a v) where
  flagsLow := h.flagsLow
  tacHigh := by
    rw [State.poke_params, State.peek_poke]
    split
    · next ha => exact htac ha.symm
    · exact h.tacHigh
  lyRange := by
    rw [State.poke_params, State.peek_poke]
    split
    · next ha => exact hly ha.symm
    · exact h.lyRange
  divRange := h.divRange
  lyAccRange := h.lyAccRange
  params := h.params
  memWf := State.poke_wf h.memWf a v
  noDead := State.poke_noDead h.noDead v he hu

/-- A byte stored at a peripheral register (R31), which lies in neither of the two ranges. -/
theorem Inv.poke_io (h : Inv s) {a : Word} {v : Byte} (ha : a ∈ s.params.io.all)
    (htac : a = s.params.io.tac → v &&& 0xF8#8 = 0#8) (hly : a = s.params.io.ly → v.toNat ≤ 153) :
    Inv (s.poke a v) := by
  obtain ⟨hlow, -⟩ := h.params.1.range ha
  exact h.poke (by omega) (by omega) htac hly

end Sys2Proof

namespace Sys2Proof.Machine

variable {s t : State}

/-- DIV, TIMA and LY are not TAC, and DIV, TIMA and TAC are not LY (R31). -/
theorem io_ne_tac_ly {io : IoAddr} (h : io.WF) :
    io.div ≠ io.tac ∧ io.div ≠ io.ly ∧ io.tima ≠ io.tac ∧ io.tima ≠ io.ly ∧ io.tac ≠ io.ly := by
  have hd := h.distinct
  simp only [List.nodup_cons, List.mem_cons, not_or] at hd
  tauto

/-- A bus write that answers keeps the invariants: DIV takes 0, TAC three bits, LY nothing (R66). -/
theorem busWrite_keeps_inv {addr : Word} {v : Byte} (h : Inv s) (hw : busWrite addr v s = .next t) : Inv t := by
  obtain ⟨-, -, -, -, htl⟩ := io_ne_tac_ly h.params.1
  rcases busWrite_next hw with ⟨-, rfl⟩ | ⟨hu, -, hstore⟩
  · exact h
  · have he := resolve_not_echo addr
    have hr : ¬ (0xFEA0 ≤ (resolve addr).toNat ∧ (resolve addr).toNat ≤ 0xFEFF) := by
      rw [← isUnusable_iff, resolve_isUnusable, hu]
      decide
    rcases hstore with ⟨-, rfl⟩ | ⟨-, ht, rfl⟩ | ⟨-, ht, hl, rfl⟩
    · exact (h.poke he hr (fun _ => by decide) (fun _ => by decide)).setDivAcc (Nat.zero_le _)
    · refine h.poke he hr (fun _ => ?_) (fun hl => absurd (ht.symm.trans hl) htl)
      rw [BitVec.and_assoc]
      exact BitVec.and_zero
    · exact h.poke he hr (fun e => absurd e ht) (fun e => absurd e hl)

theorem push16_keeps_inv {v : Word} (h : Inv s) (hp : push16 v s = .next t) : Inv t := by
  obtain ⟨u, h1, h2⟩ := push16_next hp
  exact busWrite_keeps_inv ((busWrite_keeps_inv (h.setSp _) h1).setSp _) h2

/-- Every instruction that answers keeps the invariants. -/
theorem exec_keeps_inv {i : Instr} (h : Inv s) (hx : exec i s = .next t) : Inv t := by
  cases exec_next hx with
  | alu v g _ => exact ((h.setReg8 .a v).setReg8 .f g).advance _
  | copy dst src _ _ _ _ => exact (h.setReg8 dst _).advance _
  | loadA v _ => exact (h.setReg8 .a v).advance _
  | storeA n u _ hw => exact (busWrite_keeps_inv h hw).advance _
  | jump v _ => exact h.setPc v
  | call nn u _ hp => exact (push16_keeps_inv h hp).setPc nn
  | ret _ => exact (h.setSp _).setPc _
  | halt _ => exact h.advance _

theorem divTick_keeps_inv (s : State) (h : Inv s) : Inv (divTick s) := by
  obtain ⟨hdt, hdl, -⟩ := io_ne_tac_ly h.params.1
  exact h.poke_io (by simp [IoAddr.all]) (fun e => absurd e hdt) (fun e => absurd e hdl)

theorem timaTick_keeps_inv (s : State) (h : Inv s) : Inv (timaTick s) := by
  obtain ⟨-, -, htt, htl, -⟩ := io_ne_tac_ly h.params.1
  exact h.poke_io (by simp [IoAddr.all]) (fun e => absurd e htt) (fun e => absurd e htl)

/-- LY counts modulo 154 (R232), so it stays at most 153. -/
theorem lyTick_keeps_inv (s : State) (h : Inv s) : Inv (lyTick s) := by
  obtain ⟨-, -, -, -, htl⟩ := io_ne_tac_ly h.params.1
  refine h.poke_io (by simp [IoAddr.all]) (fun e => absurd e.symm htl) (fun _ => ?_)
  rw [BitVec.toNat_ofNat]
  omega

/-- What the divider and the interval counter keep, the Timer keeps (R222, R225). -/
theorem timerStep_keeps {P : State → Prop} {c : Nat} (hdiv : ∀ u, P u → P (dividerStep c u))
    (hint : ∀ u, P u → P (intervalStep c u)) (h : P s) : P (timerStep c s) := by
  rcases Nat.eq_zero_or_pos c with rfl | hc
  · exact h
  · rw [timerStep_pos hc, timerRun]
    split
    · exact hint _ (hdiv _ h)
    · exact hdiv _ h

theorem dividerStep_keeps_inv (c : Nat) (s : State) (h : Inv s) : Inv (dividerStep c s) := by
  rw [dividerStep_eq]
  exact (iterate_keeps divTick_keeps_inv h _).setDivAcc (by omega)

theorem intervalStep_keeps_inv (c : Nat) (s : State) (h : Inv s) : Inv (intervalStep c s) := by
  rw [intervalStep_eq]
  exact (iterate_keeps timaTick_keeps_inv h _).setTimaAcc _

theorem timerStep_keeps_inv (c : Nat) (h : Inv s) : Inv (timerStep c s) :=
  timerStep_keeps (dividerStep_keeps_inv c) (intervalStep_keeps_inv c) h

theorem scanlineTick_keeps_inv (c : Nat) (h : Inv s) : Inv (scanlineTick c s) := by
  obtain ⟨-, -, -, -, htl⟩ := io_ne_tac_ly h.params.1
  cases hon : lcdOn s
  · rw [scanlineTick_off hon]
    exact (h.poke_io (by simp [IoAddr.all]) (fun _ => by decide) (fun _ => by decide)).setLyAcc (Nat.zero_le _)
  · rw [scanlineTick_on hon]
    exact (iterate_keeps lyTick_keeps_inv h _).setLyAcc (by omega)

/-- Settles O54: the step is an instruction, the Timer and the Scanline Clock (R240), and each keeps the invariants. -/
theorem stepKeepsInvariant : Obligations.StepKeepsInvariant := by
  intro s t h hs
  obtain ⟨i, u, -, hx, rfl⟩ := systemStep_next hs
  exact scanlineTick_keeps_inv _ (timerStep_keeps_inv _ (exec_keeps_inv h hx))

/-- Settles O53: the reset store is empty and every register in it is 0; the default parameters meet R31 and R275. -/
theorem resetMeetsInvariant : Obligations.ResetMeetsInvariant where
  flagsLow := by decide
  tacHigh := by decide
  lyRange := by decide
  divRange := by decide
  lyAccRange := by decide
  params := defaultParams_wf
  memWf := reset_mem_wf
  noDead := List.forall_mem_nil _

end Sys2Proof.Machine
end

section
/-! Family 10_state.md, the program counter (R26): what an instruction that answers, and one that faults, does to PC. -/

namespace Sys2Proof.Machine

variable {i : Instr} {s t : State}

/-- The PC advance in the arithmetic of words (R26). -/
theorem State.advance_pc_eq_add (s : State) (n : Nat) : (s.advance n).pc = s.pc + BitVec.ofNat 16 n := by
  rw [State.advance_pc, BitVec.ofNat_add, BitVec.ofNat_toNat, BitVec.setWidth_eq]

theorem exec_next_pc (hx : exec i s = .next t) (hjp : i.mnemonic ≠ .jp) (hjr : i.mnemonic ≠ .jr)
    (hcall : i.mnemonic ≠ .call) (hret : i.mnemonic ≠ .ret) : t.pc = s.pc + BitVec.ofNat 16 i.length := by
  cases exec_next hx with
  | alu v g _ => rw [State.advance_pc_eq_add, State.setReg8_pc, State.setReg8_pc]
  | copy dst src _ _ _ _ => rw [State.advance_pc_eq_add, State.setReg8_pc]
  | loadA v _ => rw [State.advance_pc_eq_add, State.setReg8_pc]
  | storeA n u _ hw =>
    obtain ⟨-, hpc, -⟩ := busWrite_frame hw
    rw [State.advance_pc_eq_add, hpc]
  | jump v hm => simp [hjp, hjr] at hm
  | call nn u hi _ => exact absurd (congrArg Instr.mnemonic hi) hcall
  | ret hi => exact absurd (congrArg Instr.mnemonic hi) hret
  | halt _ => exact State.advance_pc_eq_add s _

/-- A fault comes before PC is written (R152, R175). -/
theorem exec_fault_left_pc {f : Fault} (hx : exec i s = .fault f) : f.left.pc = s.pc := by
  rcases exec_fault hx with ⟨n, -, hw⟩ | ⟨nn, -, hp⟩
  · obtain ⟨rfl, -⟩ := busWrite_fault hw
    rfl
  · rcases push16_fault hp with rfl | ⟨u, hw, rfl⟩
    · rfl
    · obtain ⟨-, hpc, -⟩ := busWrite_frame hw
      exact hpc

/-- Settles O26, from the forms of a next state and of a fault of `exec`. -/
theorem pcAdvancesByLength : Obligations.PcAdvancesByLength :=
  fun _ _ => ⟨fun _ => exec_next_pc, fun _ => exec_fault_left_pc⟩

end Sys2Proof.Machine
end

section
/-! Family 10_state.md, the registers an instruction writes (R24) and the parity of SP over a run (R27). -/

namespace Sys2Proof.Machine

open Sys2Proof.Claims

variable {i : Instr} {s t : State}

theorem isAlu_iff_mem (m : Mnemonic) : isAlu m ↔ m ∈ [.add, .sub, .and, .or, .xor, .incA, .decA] := by
  simp [isAlu]

/-- An 8-bit register outside the instruction's row of R24 is kept. -/
theorem exec_next_reg8 (hx : exec i s = .next t) {r : Reg8} (hr : ¬ Writes i r) : t.reg8 r = s.reg8 r := by
  cases exec_next hx with
  | alu v g hm =>
    have hi := (isAlu_iff_mem _).mpr hm
    have ha : r ≠ .a := fun e => hr (.inl ⟨e, .inl hi⟩)
    have hf : r ≠ .f := fun e => hr (.inr (.inl ⟨e, hi⟩))
    rw [State.advance_reg8, State.reg8_setReg8_ne _ _ hf, State.reg8_setReg8_ne _ _ ha]
  | copy dst src ho _ _ _ =>
    have hd : r ≠ dst := fun e => hr (.inr (.inr ⟨src, e ▸ ho⟩))
    rw [State.advance_reg8, State.reg8_setReg8_ne _ _ hd]
  | loadA v hm =>
    have ha : r ≠ .a := fun e => hr (.inl ⟨e, .inr (by simpa using hm)⟩)
    rw [State.advance_reg8, State.reg8_setReg8_ne _ _ ha]
  | storeA n u _ hw =>
    obtain ⟨hreg, -⟩ := busWrite_frame hw
    rw [State.advance_reg8, hreg]
  | jump v _ => exact State.setPc_reg8 s v r
  | call nn u _ hp =>
    obtain ⟨hreg, -⟩ := push16_frame hp
    rw [State.setPc_reg8, hreg]
  | ret _ => rw [State.setPc_reg8, State.setSp_reg8]
  | halt _ => exact State.advance_reg8 s _ r

/-- CALL moves SP down by two, RET up by two, and no other instruction moves it (R24). -/
theorem exec_next_sp (hx : exec i s = .next t) :
    (i.mnemonic = .call ∧ t.sp = s.sp - 2#16) ∨ (i.mnemonic = .ret ∧ t.sp = s.sp + 2#16) ∨
      (i.mnemonic ≠ .call ∧ i.mnemonic ≠ .ret ∧ t.sp = s.sp) := by
  cases exec_next hx with
  | alu v g hm =>
    exact .inr (.inr ⟨ne_of_mem_of_not_mem hm (by decide), ne_of_mem_of_not_mem hm (by decide), by simp⟩)
  | copy dst src _ hm _ _ => exact .inr (.inr ⟨by simp [hm], by simp [hm], by simp⟩)
  | loadA v hm =>
    exact .inr (.inr ⟨ne_of_mem_of_not_mem hm (by decide), ne_of_mem_of_not_mem hm (by decide), by simp⟩)
  | storeA n u hi hw =>
    obtain ⟨-, -, hsp, -⟩ := busWrite_frame hw
    exact .inr (.inr ⟨by simp [hi, Instr.mnemonic], by simp [hi, Instr.mnemonic], hsp⟩)
  | jump v hm =>
    exact .inr (.inr ⟨ne_of_mem_of_not_mem hm (by decide), ne_of_mem_of_not_mem hm (by decide), rfl⟩)
  | call nn u hi hp =>
    obtain ⟨-, -, hsp, -⟩ := push16_frame hp
    exact .inl ⟨congrArg Instr.mnemonic hi, hsp⟩
  | ret hi => exact .inr (.inl ⟨congrArg Instr.mnemonic hi, rfl⟩)
  | halt hi => exact .inr (.inr ⟨by simp [hi, Instr.mnemonic], by simp [hi, Instr.mnemonic], rfl⟩)

/-- Settles O27, from the forms of a next state of `exec`. -/
theorem registersWrittenAsTabulated : Obligations.RegistersWrittenAsTabulated := by
  intro i s t hx
  refine ⟨fun r => exec_next_reg8 hx, ?_⟩
  rcases exec_next_sp hx with ⟨hm, hsp⟩ | ⟨hm, hsp⟩ | ⟨hc, hr, hsp⟩
  · simp [hm, hsp]
  · simp [hm, hsp]
  · simp [hc, hr, hsp]

theorem SameButMem.sp (h : SameButMem s t) : t.sp = s.sp := by
  obtain ⟨-, -, hsp, -⟩ := h
  exact hsp

theorem dividerStep_sp (c : Nat) (s : State) : (dividerStep c s).sp = s.sp := by
  rw [dividerStep_eq, State.setDivAcc_sp, (divTick_iterate_sameButMem _ _).sp]

theorem intervalStep_sp (c : Nat) (s : State) : (intervalStep c s).sp = s.sp := by
  rw [intervalStep_eq, State.setTimaAcc_sp, (timaTick_iterate_sameButMem _ _).sp]

theorem timerStep_sp (c : Nat) (s : State) : (timerStep c s).sp = s.sp :=
  timerStep_keeps (P := fun u => u.sp = s.sp) (fun u hu => (dividerStep_sp c u).trans hu)
    (fun u hu => (intervalStep_sp c u).trans hu) rfl

theorem scanlineTick_sp (c : Nat) (s : State) : (scanlineTick c s).sp = s.sp := by
  cases hon : lcdOn s
  · rw [scanlineTick_off hon, State.setLyAcc_sp, State.poke_sp]
  · rw [scanlineTick_on hon, State.setLyAcc_sp, (lyTick_iterate_sameButMem _ _).sp]

/-- A difference is even when the two words have one parity: 65536 is even. -/
theorem sub_getLsbD_zero_eq_false_iff (v w : Word) : (v - w).getLsbD 0 = false ↔ v.toNat % 2 = w.toNat % 2 := by
  have hw := w.isLt
  rw [BitVec.getLsbD, Nat.testBit_zero, decide_eq_false_iff_not, BitVec.toNat_sub]
  omega

/-- One step keeps the parity of SP: only its instruction moves SP, by two or not at all. -/
theorem step_sp_parity (hs : step s = .next t) : t.sp.toNat % 2 = s.sp.toNat % 2 := by
  obtain ⟨i, u, -, hx, rfl⟩ := systemStep_next hs
  rw [scanlineTick_sp, timerStep_sp]
  rcases exec_next_sp hx with ⟨-, hsp⟩ | ⟨-, hsp⟩ | ⟨-, -, hsp⟩
  · rw [hsp, BitVec.toNat_sub, BitVec.toNat_ofNat]
    omega
  · rw [hsp, BitVec.toNat_add, BitVec.toNat_ofNat]
    omega
  · rw [hsp]

/-- Settles O29, by the induction over the run: every step keeps the parity of SP. -/
theorem stackPointerKeepsParity : Obligations.StackPointerKeepsParity := by
  intro n s t h
  rw [sub_getLsbD_zero_eq_false_iff]
  exact run_keeps (R := fun s t => t.sp.toNat % 2 = s.sp.toNat % 2) (fun _ => rfl)
    (fun _ _ _ hs hr => hr.trans (step_sp_parity hs)) n h

end Sys2Proof.Machine
end

section
/-! Family 10_state.md, F decides nothing (R29): with another value of F, the bus, the stack and every instruction do
the same to the rest of the state. -/

namespace Sys2Proof.Machine

variable {s t : State}

theorem busWrite_with_f {addr : Word} {v : Byte} (hw : busWrite addr v s = .next t) (g : Byte) :
    busWrite addr v { s with f := g } = .next { t with f := g } := by
  rw [busWrite_eq]
  rcases busWrite_next hw with ⟨hu, rfl⟩ | ⟨hu, hge, hstore⟩
  · exact if_pos hu
  · rw [if_neg (Bool.eq_false_iff.mp hu), if_pos hge]
    rcases hstore with ⟨hd, rfl⟩ | ⟨hd, ht, rfl⟩ | ⟨hd, ht, hl, rfl⟩
    · exact if_pos hd
    · exact (if_neg hd).trans (if_pos ht)
    · exact (if_neg hd).trans ((if_neg ht).trans (if_neg hl))

theorem push16_with_f {v : Word} (hp : push16 v s = .next t) (g : Byte) :
    push16 v { s with f := g } = .next { t with f := g } := by
  obtain ⟨u, h1, h2⟩ := andThen_eq_next.mp hp
  exact andThen_eq_next.mpr ⟨{ u with f := g }, busWrite_with_f h1 g, busWrite_with_f h2 g⟩

/-- Settles O58: LDH (n),A and CALL do to the rest of the state what their bus writes do; the others do not read F but
INC A and DEC A, for their own new F. -/
theorem flagsDecideNothing : Obligations.FlagsDecideNothing := by
  intro i s t g hx
  cases i
  case ldhStore n =>
    obtain ⟨u, hw, hu⟩ := andThen_eq_next.mp hx
    cases hu
    exact ⟨g, andThen_eq_next.mpr ⟨_, busWrite_with_f hw g, rfl⟩⟩
  case call nn =>
    obtain ⟨u, hp, hu⟩ := andThen_eq_next.mp hx
    cases hu
    exact ⟨g, andThen_eq_next.mpr ⟨_, push16_with_f hp g, rfl⟩⟩
  all_goals
    cases hx
    exact ⟨_, rfl⟩

end Sys2Proof.Machine
end

section
/-! Family 20_memory.md, the bus: the region table (R61, R62), `BusRead` (R64), what `BusWrite` does to every byte (R65,
R66), the laws of R83 and the host port (R84). -/

namespace Sys2Proof.Machine

open Sys2Proof.Claims

variable {addr w b : Word} {v : Byte} {s t : State}

/-! ### Regions and addresses -/

/-- Two rows of the region table are one row or do not overlap (R61). -/
theorem regionTable_disjoint :
    ∀ q ∈ regionTable, ∀ r ∈ regionTable, q = r ∨ q.last < r.first ∨ r.last < q.first := by
  decide

/-- Settles O33: `regionOf` finds a row (R62), which owns the address, and no other row overlaps it. -/
theorem regionTableIsComplete : Obligations.RegionTableIsComplete := by
  refine ⟨rfl, rfl, rfl, by decide, fun a => ?_⟩
  obtain ⟨r, hr, -⟩ := regionOf_word a
  have hmem := List.mem_of_find?_eq_some hr
  obtain ⟨hfirst, hlast⟩ : r.first ≤ a.toNat ∧ a.toNat ≤ r.last := by simpa [Region.owns] using List.find?_some hr
  refine ⟨r, hmem, hr, hfirst, hlast, fun q hq hqf hql => ?_⟩
  rcases regionTable_disjoint q hq r hmem with h | h | h
  · exact h
  · omega
  · omega

/-- The address the statements write out is the one the bus resolves to (R63). -/
theorem resolve_eq_target (addr : Word) : resolve addr = target addr := rfl

theorem target_of_not_echo (h : ¬ (0xE000 ≤ addr.toNat ∧ addr.toNat ≤ 0xFDFF)) : target addr = addr :=
  resolve_of_not_echo h

/-- No echo address stands for an address of the page 0xFF00 (R61, R63). -/
theorem target_eq_iff_of_page (hw : 0xFF00 ≤ w.toNat) : target addr = w ↔ addr = w := by
  by_cases he : 0xE000 ≤ addr.toNat ∧ addr.toNat ≤ 0xFDFF
  · have ht : (target addr).toNat = addr.toNat - 0x2000 := by
      rw [← resolve_eq_target, resolve_toNat, if_pos he]
    constructor
    · rintro rfl
      omega
    · rintro rfl
      omega
  · rw [target_of_not_echo he]

/-- A peripheral register stands for itself, outside the unusable range (R31). -/
theorem io_plain {io : IoAddr} (h : io.WF) (hmem : addr ∈ io.all) :
    0x8000 ≤ addr.toNat ∧ ¬ Unusable addr ∧ target addr = addr := by
  obtain ⟨hlow, -⟩ := h.range hmem
  exact ⟨by omega, by omega, (target_eq_iff_of_page hlow).mpr rfl⟩

/-- The address of LDH in the arithmetic of words (R106). -/
theorem ioAddress_eq_add (n : Byte) : ioAddress n = 0xFF00#16 + n.setWidth 16 := by
  have hn := n.isLt
  apply BitVec.eq_of_toNat_eq
  simp only [ioAddress_toNat, BitVec.toNat_add, BitVec.toNat_ofNat, BitVec.toNat_setWidth]
  omega

theorem target_ioAddress (n : Byte) : target (ioAddress n) = ioAddress n := resolve_ioAddress n

/-! ### Reads -/

theorem isUnusable_eq_false_iff (addr : Word) : isUnusable addr = false ↔ ¬ Unusable addr := by
  rw [← Bool.not_eq_true, isUnusable_iff]

theorem busRead_of_unusable (h : Unusable addr) : busRead addr s = 0xFF#8 := by
  rw [busRead_eq, if_pos ((isUnusable_iff addr).mpr h)]

theorem busRead_of_usable (h : ¬ Unusable addr) : busRead addr s = s.peek (target addr) := by
  rw [busRead_eq, if_neg (mt (isUnusable_iff addr).mp h), resolve_eq_target]

/-- Settles O34. -/
theorem busReadGivesStoredByte : Obligations.BusReadGivesStoredByte :=
  fun _ _ => ⟨busRead_of_unusable, busRead_of_usable⟩

/-! ### Writes -/

theorem bytesAfter_of_unusable {io : IoAddr} {before : Word → Byte} (h : Unusable addr) :
    bytesAfter io before addr v b = before b :=
  if_pos (.inl h)

theorem bytesAfter_of_ne {io : IoAddr} {before : Word → Byte} (h : b ≠ target addr) :
    bytesAfter io before addr v b = before b :=
  if_pos (.inr h)

/-- The byte a write stands for takes what R66 stores there. -/
theorem bytesAfter_target {io : IoAddr} {before : Word → Byte} (hu : ¬ Unusable addr) :
    bytesAfter io before addr v (target addr)
      = if target addr = io.div then 0#8 else if target addr = io.tac then v &&& 0x07#8 else v :=
  if_neg (by simp [hu])

/-- Every byte of the store after a bus write that answers (R65, R66). -/
theorem busWrite_peek (hw : busWrite addr v s = .next t) (b : Word) :
    t.peek b = bytesAfter s.params.io s.peek addr v b := by
  rcases busWrite_next hw with ⟨hu, rfl⟩ | ⟨hu, -, hstore⟩
  · rw [bytesAfter_of_unusable ((isUnusable_iff addr).mp hu)]
  · have hu' := (isUnusable_eq_false_iff addr).mp hu
    simp only [resolve_eq_target] at hstore
    by_cases hb : b = target addr
    · subst hb
      rw [bytesAfter_target hu']
      rcases hstore with ⟨hd, rfl⟩ | ⟨hd, ht, rfl⟩ | ⟨hd, ht, -, rfl⟩
      · rw [if_pos hd, State.setDivAcc_peek, State.peek_poke_self]
      · rw [if_neg hd, if_pos ht, State.peek_poke_self]
      · rw [if_neg hd, if_neg ht, State.peek_poke_self]
    · rw [bytesAfter_of_ne hb]
      rcases hstore with ⟨-, rfl⟩ | ⟨-, -, rfl⟩ | ⟨-, -, -, rfl⟩
      · rw [State.setDivAcc_peek, State.peek_poke_ne _ _ hb]
      · exact State.peek_poke_ne _ _ hb
      · exact State.peek_poke_ne _ _ hb

/-- A write in the unusable range is dropped (R65). -/
theorem busWrite_of_unusable (h : Unusable addr) : busWrite addr v s = .next s := by
  rw [busWrite_eq, if_pos ((isUnusable_iff addr).mpr h)]

/-- `div_acc` after a bus write that answers: 0 at DIV, else as before (R66). -/
theorem busWrite_divAcc (hw : busWrite addr v s = .next t) :
    t.divAcc = if target addr = s.params.io.div ∧ ¬ Unusable addr then 0 else s.divAcc := by
  simp only [← isUnusable_eq_false_iff]
  rcases busWrite_next hw with ⟨hu, rfl⟩ | ⟨hu, -, hstore⟩
  · simp [hu]
  · simp only [resolve_eq_target] at hstore
    rcases hstore with ⟨hd, rfl⟩ | ⟨hd, -, rfl⟩ | ⟨hd, -, -, rfl⟩
    · simp [hd, hu]
    · simp [hd]
    · simp [hd]

/-- Settles O36, from the inversion of `BusWrite` and its frame. -/
theorem busWriteChangesOneByte : Obligations.BusWriteChangesOneByte := by
  intro addr v s t hw
  obtain ⟨hreg, hpc, hsp, htima, hly, hparams⟩ := busWrite_frame hw
  refine ⟨fun hu => ?_, busWrite_peek hw, hreg, hpc, hsp, htima, hly, hparams, fun hd => ?_⟩
  · rw [busWrite_of_unusable hu] at hw
    cases hw
    rfl
  · rw [busWrite_divAcc hw, if_neg fun h => hd h.1]

/-- A bus write outside ROM and LY answers (R65, R66). -/
theorem busWrite_answers (hrom : 0x8000 ≤ addr.toNat) (hly : target addr ≠ s.params.io.ly) (v : Byte) :
    ∃ t, busWrite addr v s = .next t := by
  rcases next_or_fault_of_not_refused (busWrite_not_refused addr v s) with ht | ⟨f, hf⟩
  · exact ht
  · obtain ⟨-, -, hlow | ⟨hl, -, -⟩⟩ := busWrite_fault hf
    · omega
    · exact absurd hl hly

/-- A bus write to ROM faults and leaves the state as it was (R65, R202). -/
theorem busWrite_rom (h : addr.toNat < 0x8000) : busWrite addr v s = .fault (.readOnlyViolation addr s) := by
  have hu : ¬ isUnusable addr = true := by
    rw [isUnusable_iff]
    omega
  rw [busWrite_eq, if_neg hu, if_neg (by omega), raise_eq]

/-- A bus write to LY faults and leaves the state as it was (R66, D10). -/
theorem busWrite_ly (h : s.params.io.WF) :
    busWrite s.params.io.ly v s = .fault (.readOnlyViolation s.params.io.ly s) := by
  obtain ⟨-, hdl, -, -, htl⟩ := io_ne_tac_ly h
  obtain ⟨hrom, hu, ht⟩ := io_plain h (addr := s.params.io.ly) (by simp [IoAddr.all])
  rw [busWrite_eq, if_neg (mt (isUnusable_iff _).mp hu), if_pos hrom, resolve_eq_target, ht, storeByte, if_neg hdl.symm,
    if_neg htl.symm, if_pos rfl, raise_eq]

/-- What is read back after a write, at the address written or at its other name in the echo range (R83). -/
theorem busRead_after_busWrite (hw : busWrite addr v s = .next t) (ht : target w = target addr) (hu : ¬ Unusable addr)
    (hu' : ¬ Unusable w) :
    busRead w t
      = if target addr = s.params.io.div then 0#8 else if target addr = s.params.io.tac then v &&& 0x07#8 else v := by
  rw [busRead_of_usable hu', busWrite_peek hw, ht, bytesAfter_target hu]

/-- Round trip (R83) at a writable address that is not DIV, TAC or LY, read back under either of its names. -/
theorem busWrite_roundTrip (h : s.params.io.WF) (hp : Plain s.params.io addr) (ht : target w = target addr)
    (hu : ¬ Unusable w) (v : Byte) : ∃ t, busWrite addr v s = .next t ∧ busRead w t = v := by
  obtain ⟨hrom, hua, hdiv, htac, hly⟩ := hp
  have hne : ∀ r ∈ s.params.io.all, addr ≠ r → target addr ≠ r := by
    intro r hr hn
    obtain ⟨hlow, -⟩ := h.range hr
    exact mt (target_eq_iff_of_page hlow).mp hn
  obtain ⟨t, hw⟩ := busWrite_answers hrom (hne _ (by simp [IoAddr.all]) hly) v
  refine ⟨t, hw, ?_⟩
  rw [busRead_after_busWrite hw ht hua hu, if_neg (hne _ (by simp [IoAddr.all]) hdiv),
    if_neg (hne _ (by simp [IoAddr.all]) htac)]

/-- At DIV a write answers, clears the byte and clears `div_acc` (R66). -/
theorem busWrite_div (h : s.params.io.WF) (v : Byte) :
    ∃ t, busWrite s.params.io.div v s = .next t ∧ busRead s.params.io.div t = 0#8 ∧ t.divAcc = 0 := by
  obtain ⟨-, hdl, -⟩ := io_ne_tac_ly h
  obtain ⟨hrom, hu, ht⟩ := io_plain h (addr := s.params.io.div) (by simp [IoAddr.all])
  obtain ⟨t, hw⟩ := busWrite_answers hrom (ht.symm ▸ hdl) v
  refine ⟨t, hw, ?_, ?_⟩
  · rw [busRead_after_busWrite hw rfl hu hu, if_pos ht]
  · rw [busWrite_divAcc hw, if_pos ⟨ht, hu⟩]

/-- At TAC a write answers and stores the low three bits (R66). -/
theorem busWrite_tac (h : s.params.io.WF) (v : Byte) :
    ∃ t, busWrite s.params.io.tac v s = .next t ∧ busRead s.params.io.tac t = v &&& 0x07#8 := by
  obtain ⟨hdt, -, -, -, htl⟩ := io_ne_tac_ly h
  obtain ⟨hrom, hu, ht⟩ := io_plain h (addr := s.params.io.tac) (by simp [IoAddr.all])
  obtain ⟨t, hw⟩ := busWrite_answers hrom (ht.symm ▸ htl) v
  refine ⟨t, hw, ?_⟩
  rw [busRead_after_busWrite hw rfl hu hu, ht, if_neg hdt.symm, if_pos rfl]

/-- An address below the peripheral registers, outside ROM and the unusable range, is plain storage (R31, R172). -/
theorem plain_of_lt {io : IoAddr} (h : io.WF) (hrom : 0x8000 ≤ addr.toNat) (hlt : addr.toNat < 0xFF00)
    (hu : ¬ Unusable addr) : Plain io addr := by
  have hne : ∀ r ∈ io.all, addr ≠ r := by
    rintro r hr rfl
    obtain ⟨hlow, -⟩ := h.range hr
    omega
  exact ⟨hrom, hu, hne _ (by simp [IoAddr.all]), hne _ (by simp [IoAddr.all]), hne _ (by simp [IoAddr.all])⟩

/-- Settles O35: round trip, the effects at DIV and TAC, the faults at LY and in ROM, and the echo range under both of its
names. -/
theorem busLaws : Obligations.BusLaws := by
  rintro addr v s ⟨h, -⟩
  refine ⟨fun hrom hu hd ht hl => busWrite_roundTrip h ⟨hrom, hu, hd, ht, hl⟩ rfl hu v, ?_, ?_, ?_, busWrite_rom, ?_⟩
  · rintro rfl
    exact busWrite_div h v
  · rintro rfl
    exact busWrite_tac h v
  · rintro rfl
    exact busWrite_ly h
  · intro hlow hhigh
    have hmirror : (addr - 0x2000#16).toNat = addr.toNat - 0x2000 := by
      rw [BitVec.toNat_sub, BitVec.toNat_ofNat]
      omega
    have htarget : target (addr - 0x2000#16) = target addr :=
      (target_of_not_echo (by omega)).trans (if_pos ⟨hlow, hhigh⟩).symm
    have hu : ¬ Unusable addr := by omega
    have hum : ¬ Unusable (addr - 0x2000#16) := by omega
    exact ⟨busWrite_roundTrip h (plain_of_lt h (by omega) (by omega) hu) htarget hum v,
      busWrite_roundTrip h (plain_of_lt h (by omega) (by omega) hum) htarget.symm hu v⟩

/-! ### The host port -/

/-- Settles O39: an address or byte in its range passes the host port's tests and is itself after the conversion. -/
theorem hostPortIsTheBus : Obligations.HostPortIsTheBus := by
  intro addr v s
  have ha := addr.isLt
  have hv := v.isLt
  have hwa : BitVec.ofInt 16 (addr.toNat : Int) = addr := by simp
  have hwv : BitVec.ofInt 8 (v.toNat : Int) = v := by simp
  constructor
  · rw [hostRead, if_neg (by omega), hwa]
  · rw [hostWrite, if_neg (by omega), if_neg (by omega), hwa, hwv]

end Sys2Proof.Machine
end

section
/-! Family 20_memory.md, the bytes an instruction stores (R81): LDH (n),A and CALL alone store, through the bus. -/

namespace Sys2Proof.Machine

open Sys2Proof.Claims

variable {i : Instr} {addr : Word} {v : Byte} {s t : State}

/-- A byte a bus write changes is the one its address stands for, and lies outside ROM (R63, R65). -/
theorem busWrite_peek_cases (hw : busWrite addr v s = .next t) (b : Word) :
    t.peek b = s.peek b ∨ (0x8000 ≤ b.toNat ∧ b = target addr) := by
  by_cases hb : b = target addr
  · rcases busWrite_next hw with ⟨-, rfl⟩ | ⟨-, hrom, -⟩
    · exact .inl rfl
    · rw [← resolve_ge_iff, resolve_eq_target, ← hb] at hrom
      exact .inr ⟨hrom, hb⟩
  · rw [busWrite_peek hw, bytesAfter_of_ne hb]
    exact .inl rfl

/-- A byte a push changes is one of the two SP - 1 and SP - 2 stand for, and lies outside ROM (R170). -/
theorem push16_peek_cases {x : Word} (hp : push16 x s = .next t) (b : Word) :
    t.peek b = s.peek b ∨ (0x8000 ≤ b.toNat ∧ (b = target (s.sp - 1#16) ∨ b = target (s.sp - 2#16))) := by
  obtain ⟨u, h1, h2⟩ := push16_next hp
  rcases busWrite_peek_cases h2 b with hb2 | ⟨hrom, hb2⟩
  · rcases busWrite_peek_cases h1 b with hb1 | ⟨hrom, hb1⟩
    · exact .inl (hb2.trans hb1)
    · exact .inr ⟨hrom, .inl hb1⟩
  · exact .inr ⟨hrom, .inr hb2⟩

/-- The bytes an instruction stores (R152, R170, R175): 0xFF00 + n of LDH (n),A, those SP - 1 and SP - 2 stand for of
CALL. -/
def Stores (i : Instr) (s : State) (b : Word) : Prop :=
  (∃ n, i = .ldhStore n ∧ b = 0xFF00#16 + n.setWidth 16) ∨
  ∃ nn, i = .call nn ∧ (b = target (s.sp - 1#16) ∨ b = target (s.sp - 2#16))

/-- `Stores` in the two exceptions of the statements. -/
theorem not_stores {b : Word} (hldh : ∀ n, i = .ldhStore n → b ≠ 0xFF00#16 + n.setWidth 16)
    (hcall : ∀ nn, i = .call nn → b ≠ target (s.sp - 1#16) ∧ b ≠ target (s.sp - 2#16)) : ¬ Stores i s b := by
  rintro (⟨n, hi, hb⟩ | ⟨nn, hi, hb⟩)
  · exact hldh n hi hb
  · obtain ⟨h1, h2⟩ := hcall nn hi
    exact hb.elim h1 h2

/-- A byte an instruction changes is one it stores, and lies outside ROM. -/
theorem exec_peek_cases (hx : exec i s = .next t) (b : Word) :
    t.peek b = s.peek b ∨ (0x8000 ≤ b.toNat ∧ Stores i s b) := by
  cases exec_next hx with
  | alu _ _ _ => exact .inl (by simp)
  | copy _ _ _ _ _ _ => exact .inl (by simp)
  | loadA _ _ => exact .inl (by simp)
  | storeA n u hi hw =>
    refine (busWrite_peek_cases hw b).imp_right fun ⟨hrom, hb⟩ => ⟨hrom, .inl ⟨n, hi, ?_⟩⟩
    rw [hb, target_ioAddress, ioAddress_eq_add]
  | jump _ _ => exact .inl rfl
  | call nn u hi hp => exact (push16_peek_cases hp b).imp_right fun ⟨hrom, hb⟩ => ⟨hrom, .inr ⟨nn, hi, hb⟩⟩
  | ret _ => exact .inl rfl
  | halt _ => exact .inl rfl

/-- No instruction changes the parameters, `tima_acc` or `ly_acc` (R39, R67). -/
theorem exec_frame (hx : exec i s = .next t) :
    t.params = s.params ∧ t.timaAcc = s.timaAcc ∧ t.lyAcc = s.lyAcc := by
  cases exec_next hx with
  | alu _ _ _ => simp
  | copy _ _ _ _ _ _ => simp
  | loadA _ _ => simp
  | storeA n u _ hw =>
    obtain ⟨-, -, -, htima, hly, hparams⟩ := busWrite_frame hw
    exact ⟨hparams, htima, hly⟩
  | jump _ _ => exact ⟨rfl, rfl, rfl⟩
  | call nn u _ hp =>
    obtain ⟨-, -, -, htima, hly, hparams⟩ := push16_frame hp
    exact ⟨hparams, htima, hly⟩
  | ret _ => exact ⟨rfl, rfl, rfl⟩
  | halt _ => exact ⟨rfl, rfl, rfl⟩

/-- An instruction without a bus write leaves the store and `div_acc` alone. -/
theorem exec_mem_divAcc (hx : exec i s = .next t) (hcall : i.mnemonic ≠ .call) (hldh : i.mnemonic ≠ .ldhStore) :
    t.mem = s.mem ∧ t.divAcc = s.divAcc := by
  cases exec_next hx with
  | alu _ _ _ => simp
  | copy _ _ _ _ _ _ => simp
  | loadA _ _ => simp
  | storeA n u hi _ => exact absurd (congrArg Instr.mnemonic hi) hldh
  | jump _ _ => exact ⟨rfl, rfl⟩
  | call nn u hi _ => exact absurd (congrArg Instr.mnemonic hi) hcall
  | ret _ => exact ⟨rfl, rfl⟩
  | halt _ => exact ⟨rfl, rfl⟩

/-- Settles O28, from the forms of a next state of `exec`. -/
theorem onlyCallAndLoadHighStore : Obligations.OnlyCallAndLoadHighStore := by
  intro i s t hx
  obtain ⟨hparams, htima, hly⟩ := exec_frame hx
  refine ⟨hparams, htima, hly, exec_mem_divAcc hx, fun b hldh hcall => ?_⟩
  exact (exec_peek_cases hx b).resolve_right fun ⟨_, hb⟩ => not_stores hldh hcall hb

end Sys2Proof.Machine
end

section
/-! Family 20_memory.md, what the two peripherals and a system step leave unchanged (R67, R240), and the ROM image and the
parameters over a run (R39, R75). -/

namespace Sys2Proof.Machine

open Sys2Proof.Claims

variable {own : List Word} {s t u : State}

/-! ### The peripherals -/

/-- The registers, PC, SP, the parameters and every byte outside a list of addresses are as before. -/
structure FrameOutside (own : List Word) (s t : State) : Prop where
  reg8 : ∀ r, t.reg8 r = s.reg8 r
  pc : t.pc = s.pc
  sp : t.sp = s.sp
  params : t.params = s.params
  peek : ∀ b, b ∉ own → t.peek b = s.peek b

theorem FrameOutside.refl (own : List Word) (s : State) : FrameOutside own s s :=
  ⟨fun _ => rfl, rfl, rfl, rfl, fun _ _ => rfl⟩

theorem FrameOutside.trans (h : FrameOutside own s t) (h' : FrameOutside own t u) : FrameOutside own s u where
  reg8 r := (h'.reg8 r).trans (h.reg8 r)
  pc := h'.pc.trans h.pc
  sp := h'.sp.trans h.sp
  params := h'.params.trans h.params
  peek b hb := (h'.peek b hb).trans (h.peek b hb)

/-- What changes the store alone, and there only bytes of the list. -/
theorem FrameOutside.of_sameButMem (h : SameButMem s t) (hpeek : ∀ b, b ∉ own → t.peek b = s.peek b) :
    FrameOutside own s t := by
  obtain ⟨hreg, hpc, hsp, -, -, -, hparams⟩ := h
  exact ⟨hreg, hpc, hsp, hparams, hpeek⟩

theorem FrameOutside.setDivAcc (h : FrameOutside own s t) (n : Nat) : FrameOutside own s (t.setDivAcc n) := { h with }

theorem FrameOutside.setTimaAcc (h : FrameOutside own s t) (n : Nat) : FrameOutside own s (t.setTimaAcc n) := { h with }

theorem FrameOutside.setLyAcc (h : FrameOutside own s t) (n : Nat) : FrameOutside own s (t.setLyAcc n) := { h with }

/-- The bytes the Timer writes (R67). -/
def timerBytes (io : IoAddr) : List Word := [io.div, io.tima]

theorem dividerStep_frame (c : Nat) (s : State) : FrameOutside (timerBytes s.params.io) s (dividerStep c s) := by
  rw [dividerStep_eq]
  refine (FrameOutside.of_sameButMem (divTick_iterate_sameButMem s _) fun b hb => ?_).setDivAcc _
  exact divTick_iterate_peek_ne s _ (List.ne_of_not_mem_cons hb)

theorem intervalStep_frame (c : Nat) (s : State) : FrameOutside (timerBytes s.params.io) s (intervalStep c s) := by
  rw [intervalStep_eq]
  refine (FrameOutside.of_sameButMem (timaTick_iterate_sameButMem s _) fun b hb => ?_).setTimaAcc _
  exact timaTick_iterate_peek_ne s _ (List.ne_of_not_mem_cons (List.not_mem_of_not_mem_cons hb))

/-- The Timer's registers are DIV and TIMA (R67). -/
theorem timerStep_frame (c : Nat) (s : State) : FrameOutside (timerBytes s.params.io) s (timerStep c s) :=
  timerStep_keeps (P := FrameOutside (timerBytes s.params.io) s)
    (fun u hu => hu.trans (hu.params ▸ dividerStep_frame c u))
    (fun u hu => hu.trans (hu.params ▸ intervalStep_frame c u)) (FrameOutside.refl _ s)

theorem timerStep_lyAcc (c : Nat) (s : State) : (timerStep c s).lyAcc = s.lyAcc := by
  refine timerStep_keeps (P := fun u => u.lyAcc = s.lyAcc) (fun u hu => ?_) (fun u hu => ?_) rfl
  · obtain ⟨-, -, -, -, -, hly, -⟩ := divTick_iterate_sameButMem u ((u.divAcc + c) / 256)
    rw [dividerStep_eq, State.setDivAcc_lyAcc, hly, hu]
  · obtain ⟨-, -, -, -, -, hly, -⟩ :=
      timaTick_iterate_sameButMem u ((u.timaAcc + c) / period (u.peek u.params.io.tac))
    rw [intervalStep_eq, State.setTimaAcc_lyAcc, hly, hu]

/-- What `ScanlineTick` does to the state before it sets `ly_acc`: it changes the store alone, and there only LY (R67,
R232). -/
theorem scanlineTick_cases (c : Nat) (s : State) :
    ∃ u n, scanlineTick c s = u.setLyAcc n ∧ SameButMem s u ∧ ∀ b, b ≠ s.params.io.ly → u.peek b = s.peek b := by
  cases hon : lcdOn s
  · exact ⟨_, _, scanlineTick_off hon c, (SameButMem.refl s).poke _ _, fun b hb => State.peek_poke_ne s _ hb⟩
  · exact ⟨_, _, scanlineTick_on hon c, lyTick_iterate_sameButMem s _, fun b hb => lyTick_iterate_peek_ne s _ hb⟩

theorem scanlineTick_frame (c : Nat) (s : State) : FrameOutside [s.params.io.ly] s (scanlineTick c s) := by
  obtain ⟨u, n, he, hsame, hpeek⟩ := scanlineTick_cases c s
  rw [he]
  exact (FrameOutside.of_sameButMem hsame fun b hb => hpeek b (List.ne_of_not_mem_cons hb)).setLyAcc n

theorem scanlineTick_timerAccs (c : Nat) (s : State) :
    (scanlineTick c s).divAcc = s.divAcc ∧ (scanlineTick c s).timaAcc = s.timaAcc := by
  obtain ⟨u, n, he, ⟨-, -, -, hdiv, htima, -⟩, -⟩ := scanlineTick_cases c s
  rw [he]
  exact ⟨hdiv, htima⟩

/-- Settles O49, from the frames of the two peripherals. -/
theorem peripheralsTouchOnlyTheirOwn : Obligations.PeripheralsTouchOnlyTheirOwn := by
  intro c s
  have ht := timerStep_frame c s
  have hl := scanlineTick_frame c s
  obtain ⟨hdiv, htima⟩ := scanlineTick_timerAccs c s
  exact ⟨fun b hd hi => ht.peek b (by simp [timerBytes, hd, hi]), fun b hb => hl.peek b (by simpa using hb),
    fun r => ⟨ht.reg8 r, hl.reg8 r⟩, ht.pc, hl.pc, ht.sp, hl.sp, timerStep_lyAcc c s, hdiv, htima, ht.params, hl.params⟩

/-! ### The system step -/

/-- The bytes the two peripherals write (R67). -/
def peripheralBytes (io : IoAddr) : List Word := [io.div, io.tima, io.ly]

/-- The peripherals together, as the system step runs them (R240). -/
theorem peripherals_frame (c : Nat) (s : State) : FrameOutside (peripheralBytes s.params.io) s (peripherals c s) := by
  have ht := timerStep_frame c s
  have hl := scanlineTick_frame c (timerStep c s)
  rw [ht.params] at hl
  refine FrameOutside.trans (t := timerStep c s) { ht with peek := fun b hb => ht.peek b ?_ }
    { hl with peek := fun b hb => hl.peek b ?_ }
  · simp only [peripheralBytes, timerBytes, List.mem_cons, not_or] at hb ⊢
    tauto
  · simp only [peripheralBytes, List.mem_cons, not_or] at hb ⊢
    tauto

/-- A system step executes the instruction at PC and then changes only the bytes of the peripherals (R240). -/
theorem step_next (hs : step s = .next t) :
    ∃ i u, FetchesAs s i ∧ exec i s = .next u ∧ FrameOutside (peripheralBytes s.params.io) u t := by
  obtain ⟨i, u, hd, hx, rfl⟩ := systemStep_next hs
  obtain ⟨hparams, -⟩ := exec_frame hx
  exact ⟨i, u, ⟨_, hd⟩, hx, hparams ▸ peripherals_frame _ u⟩

/-- The bytes at PC decode to one instruction. -/
theorem fetchesAs_unique {i j : Instr} (hi : FetchesAs s i) (hj : FetchesAs s j) : i = j := by
  obtain ⟨_, hi⟩ := hi
  obtain ⟨_, hj⟩ := hj
  rw [hi] at hj
  cases hj
  rfl

/-- Settles O60: outside the bytes of the peripherals a step changes what its instruction stores. -/
theorem stepChangesNoOtherByte : Obligations.StepChangesNoOtherByte := by
  intro s t i hf hs b hdiv htima hly hldh hcall
  obtain ⟨j, u, hj, hx, hframe⟩ := step_next hs
  obtain rfl := fetchesAs_unique hf hj
  rw [hframe.peek b (by simp [peripheralBytes, hdiv, htima, hly])]
  exact (exec_peek_cases hx b).resolve_right fun ⟨_, hb⟩ => not_stores hldh hcall hb

/-- No byte of the ROM image is a peripheral register (R31). -/
theorem not_mem_peripheralBytes_of_rom {io : IoAddr} (h : io.WF) {b : Word} (hb : b.toNat ≤ 0x7FFF) :
    b ∉ peripheralBytes io := by
  intro hmem
  have hall : b ∈ io.all := by
    simp only [peripheralBytes, IoAddr.all, List.mem_cons] at hmem ⊢
    tauto
  obtain ⟨hlow, -⟩ := h.range hall
  omega

/-- Settles O56: an instruction stores outside ROM alone, and the peripheral registers lie outside ROM. -/
theorem stepKeepsRomAndParameters : Obligations.StepKeepsRomAndParameters := by
  rintro s t ⟨hio, -⟩ hs
  obtain ⟨i, u, -, hx, hframe⟩ := step_next hs
  obtain ⟨hparams, -⟩ := exec_frame hx
  refine ⟨hframe.params.trans hparams, fun b hb => ?_⟩
  rw [hframe.peek b (not_mem_peripheralBytes_of_rom hio hb)]
  exact (exec_peek_cases hx b).resolve_right fun ⟨hrom, _⟩ => by omega

theorem sameRun_refl (s : State) : SameRun s s := ⟨rfl, fun _ _ => rfl⟩

theorem sameRun_trans (h : SameRun s t) (h' : SameRun t u) : SameRun s u :=
  ⟨h'.1.trans h.1, fun b hb => (h'.2 b hb).trans (h.2 b hb)⟩

/-- Settles O57, by the induction over the run: a step keeps the invariants (O54), the parameters and the ROM image
(O56). -/
theorem runKeepsInvariantAndRom : Obligations.RunKeepsInvariantAndRom := by
  intro n s t hinv h
  refine run_keeps (R := fun s t => Inv s → Inv t ∧ SameRun s t) (fun s hs => ⟨hs, sameRun_refl s⟩) ?_ n h hinv
  intro s t u hs hrest hinv
  obtain ⟨hu, hrun⟩ := hrest (stepKeepsInvariant s t hinv hs)
  exact ⟨hu, sameRun_trans (stepKeepsRomAndParameters s t hinv.params hs) hrun⟩

end Sys2Proof.Machine
end

section
/-! Family 20_memory.md, the host's other operations (R242) keep the invariants of R44. -/

namespace Sys2Proof.Machine

variable {s t : State}

/-- A host port write that answers is a bus write (R84). -/
theorem hostWrite_next {addr value : Int} (h : hostWrite addr value s = .next t) :
    busWrite (BitVec.ofInt 16 addr) (BitVec.ofInt 8 value) s = .next t := by
  unfold hostWrite at h
  split at h
  · cases h
  · split at h
    · cases h
    · exact h

theorem setReg_keeps_inv (h : Inv s) (r : RegName) (v : Int) : Inv (setReg r v s) := by
  cases r with
  | reg8 x => exact h.setReg8 x _
  | pc => exact h.setPc _
  | sp => exact h.setSp _

/-- An engine step that answers has executed an instruction (R193). -/
theorem engineStep_next {c : Nat} (h : engineStep s = .next (t, c)) : ∃ i, exec i s = .next t := by
  rcases engineStep_cases s with ⟨-, he⟩ | ⟨i, -, -, he⟩
  · rw [he] at h
    cases h
  · rw [he] at h
    obtain ⟨u, hx, hu⟩ := andThen_eq_next.mp h
    cases hu
    exact ⟨i, hx⟩

theorem writeAF_keeps_inv (h : Inv s) {length : Nat} {v g : Byte} (hx : writeAF length v g s = .next t) : Inv t := by
  cases hx
  exact ((h.setReg8 .a v).setReg8 .f g).advance _

/-- R150 at the test port: a copy with F as an operand is no instruction (R103, U10). -/
theorem executeFields_ldRR (length : Nat) (dst src : Reg8) (s : State) :
    executeFields .ldRR length (.regs dst src) s
      = if dst = .f ∨ src = .f then .refused .malformedRecord else ldReg length dst src s := rfl

theorem executeFields_ldRR_keeps_inv (h : Inv s) {length : Nat} {dst src : Reg8}
    (hx : executeFields .ldRR length (.regs dst src) s = .next t) : Inv t := by
  rw [executeFields_ldRR] at hx
  split at hx
  · cases hx
  · cases hx
    exact (h.setReg8 dst _).advance _

theorem ldhStore_keeps_inv (h : Inv s) {length : Nat} {n : Byte} (hx : ldhStore length n s = .next t) : Inv t := by
  obtain ⟨u, hw, hu⟩ := andThen_eq_next.mp hx
  cases hu
  exact (busWrite_keeps_inv h hw).advance _

theorem callTo_keeps_inv (h : Inv s) {length : Nat} {nn : Word} (hx : callTo length nn s = .next t) : Inv t := by
  obtain ⟨u, hp, hu⟩ := andThen_eq_next.mp hx
  cases hu
  exact (push16_keeps_inv h hp).setPc nn

/-- The meaning of each mnemonic keeps the invariants, whatever the record's length; every other operand is refused
(R195, U10). -/
theorem executeFields_keeps_inv (h : Inv s) {m : Mnemonic} {length : Nat} {o : Operand}
    (hx : executeFields m length o s = .next t) : Inv t := by
  cases m <;> cases o
  case add.imm8 | sub.imm8 | and.imm8 | or.imm8 | xor.imm8 | incA.none | decA.none => exact writeAF_keeps_inv h hx
  case ldRR.regs => exact executeFields_ldRR_keeps_inv h hx
  case ldAn.imm8 | ldhLoad.ioOffset8 =>
    cases hx
    exact (h.setReg8 .a _).advance _
  case ldhStore.ioOffset8 => exact ldhStore_keeps_inv h hx
  case jp.addr16 | jr.rel8 =>
    cases hx
    exact h.setPc _
  case call.addr16 => exact callTo_keeps_inv h hx
  case ret.none => exact exec_keeps_inv (i := .ret) h hx
  case halt.none =>
    cases hx
    exact h.advance _
  all_goals cases hx

/-- A direct execution that answers has executed the fields of its record (R195). -/
theorem directExecute_next {r : Record} {c : Nat} (h : directExecute r s = .next (t, c)) :
    ∃ m, executeFields m r.length r.operand s = .next t := by
  unfold directExecute at h
  split at h
  · cases h
  · next m _ =>
    obtain ⟨u, hx, hu⟩ := andThen_eq_next.mp h
    cases hu
    exact ⟨m, hx⟩

/-- Settles O55: each operation is a bus write, a register write, an instruction's meaning or a peripheral. -/
theorem hostOperationsKeepInvariant : Obligations.HostOperationsKeepInvariant := by
  intro s h
  refine ⟨fun _ _ t hw => busWrite_keeps_inv h (hostWrite_next hw), setReg_keeps_inv h, fun t c he => ?_,
    fun c => timerStep_keeps_inv c h, fun c => scanlineTick_keeps_inv c h, fun r t c hd => ?_⟩
  · obtain ⟨i, hx⟩ := engineStep_next he
    exact exec_keeps_inv h hx
  · obtain ⟨m, hx⟩ := directExecute_next hd
    exact executeFields_keeps_inv h hx

end Sys2Proof.Machine
end

section
/-! Family 30_encoding.md, decode and encode agree (R102, R107, R109): the form of an instruction (R100), the opcode map
on what the encoder writes, and the decoder as one equivalence. -/

namespace Sys2Proof

open Sys2Proof.Claims

/-- What the opcode byte alone determines of an instruction (R100): its mnemonic and its operand type. -/
def Instr.form (i : Instr) : Mnemonic × OperandKind := (i.mnemonic, kindOf i.operand)

theorem Operand.bytes_length (o : Operand) : o.bytes.length + 1 = lengthOfKind (kindOf o) := by
  cases o <;> rfl

/-- R100: the length follows from the operand type. -/
theorem Instr.length_eq_lengthOfKind (i : Instr) : i.length = lengthOfKind (kindOf i.operand) := by
  cases i <;> rfl

theorem encode_length (i : Instr) : (encode i).length = i.length := by
  rw [Instr.length_eq_lengthOfKind, ← Operand.bytes_length, encode, List.length_cons]

/-- R107, R108: on an opcode byte the encoder writes, the map answers its instruction's form, whatever bytes follow. -/
theorem decodeBytes_opcode_form (i : Instr) (b1 b2 : Byte) :
    (decodeBytes i.opcode b1 b2).map Instr.form = some i.form := by
  cases i <;> rfl

/-- R107: on the bytes the encoder writes, the map answers the instruction. An address is the `addr16` of its two bytes
(R105); every other operand is its own byte. -/
theorem decodeBytes_encode (i : Instr) (rest : List Byte) :
    decodeBytes i.opcode ((i.operand.bytes ++ rest).getD 0 0#8) ((i.operand.bytes ++ rest).getD 1 0#8) = some i := by
  cases i
  case jp nn => exact congrArg (some ∘ Instr.jp) (addr16_halves nn)
  case call nn => exact congrArg (some ∘ Instr.call) (addr16_halves nn)
  all_goals rfl

/-- R109: the decoder answers an instruction exactly when the map does and the list is long enough; it leaves the bytes
after the instruction's length. -/
theorem decode_cons_eq_ok {op : Byte} {more rest : List Byte} {i : Instr} :
    decode (op :: more) = .ok (i, rest) ↔
      decodeBytes op (more.getD 0 0#8) (more.getD 1 0#8) = some i ∧ i.length ≤ more.length + 1 ∧
        rest = (op :: more).drop i.length := by
  cases hd : decodeBytes op (more.getD 0 0#8) (more.getD 1 0#8) with
  | none => simp only [decode, hd, reduceCtorEq, false_and]
  | some j =>
    simp only [decode, hd, Option.some.injEq]
    split
    · next hshort =>
      simp only [reduceCtorEq, false_iff]
      rintro ⟨rfl, hlong, -⟩
      omega
    · next hlong =>
      simp only [Except.ok.injEq, Prod.mk.injEq]
      constructor
      · rintro ⟨rfl, rfl⟩
        exact ⟨rfl, by omega, rfl⟩
      · rintro ⟨rfl, -, rfl⟩
        exact ⟨rfl, rfl⟩

/-- Settles O1: the map reads the instruction back, and its length is that of the bytes the encoder wrote. -/
theorem decodeOfEncodeIsIdentity : Obligations.DecodeOfEncodeIsIdentity := by
  intro i rest
  have hlong : i.length ≤ (i.operand.bytes ++ rest).length + 1 := by
    rw [← encode_length, encode, List.length_cons, List.length_append]
    omega
  have hdrop : (encode i ++ rest).drop i.length = rest := List.drop_left' (encode_length i)
  exact decode_cons_eq_ok.mpr ⟨decodeBytes_encode i rest, hlong, hdrop.symm⟩

/-- The first bytes of a list, as the decoder takes them: up to two, with a default past the end. -/
theorem take_getD_pair {more : List Byte} {n : Nat} (hn : n ≤ 2) (hl : n ≤ more.length) :
    [more.getD 0 0#8, more.getD 1 0#8].take n = more.take n := by
  match n, more with
  | 0, _ => rfl
  | 1, _ :: _ => rfl
  | 2, _ :: _ :: _ => rfl

/-- The bytes the decoder took are the ones the encoder writes (R107, R109). -/
theorem take_of_decode {op : Byte} {more rest : List Byte} {i : Instr} (h : decode (op :: more) = .ok (i, rest)) :
    (op :: more).take i.length = encode i := by
  obtain ⟨hd, hl, -⟩ := decode_cons_eq_ok.mp h
  obtain ⟨hop, hbytes⟩ := decodeBytes_some hd
  have hlen := i.length_cases
  have hpos : i.length = i.length - 1 + 1 := by omega
  rw [take_getD_pair (by omega) (by omega)] at hbytes
  rw [encode, hop, hbytes, hpos, List.take_succ_cons, Nat.add_sub_cancel]

/-- Settles O2: the list is the bytes taken and the bytes left. -/
theorem encodeOfDecodeIsIdentity : Obligations.EncodeOfDecodeIsIdentity := by
  intro bytes i rest h
  cases bytes with
  | nil => cases h
  | cons op more =>
    obtain ⟨-, -, hrest⟩ := decode_cons_eq_ok.mp h
    rw [← take_of_decode h, hrest, List.take_append_drop]

/-- The form of what the map answers does not depend on the bytes after the opcode byte (R100). -/
theorem decodeBytes_form_of_some {op b1 b2 : Byte} {i : Instr} (h : decodeBytes op b1 b2 = some i) (c1 c2 : Byte) :
    (decodeBytes op c1 c2).map Instr.form = some i.form := by
  obtain ⟨rfl, -⟩ := decodeBytes_some h
  exact decodeBytes_opcode_form i c1 c2

/-- Settles O6: instructions with one opcode byte have one form, and the form gives the length. -/
theorem opcodeByteDeterminesLength : Obligations.OpcodeByteDeterminesLength := by
  intro op more more' i j rest rest' hi hj
  obtain ⟨hdi, hl, rfl⟩ := decode_cons_eq_ok.mp hi
  obtain ⟨hdj, -, -⟩ := decode_cons_eq_ok.mp hj
  have hform : i.form = j.form := by
    have h := decodeBytes_form_of_some hdi (more'.getD 0 0#8) (more'.getD 1 0#8)
    rw [hdj] at h
    exact (Option.some.inj h).symm
  obtain ⟨hm, hk⟩ := Prod.mk.inj hform
  refine ⟨hm, congrArg Mnemonic.length hm, hk, i.length_eq_lengthOfKind, ?_⟩
  rw [List.length_drop, List.length_cons]
  omega

end Sys2Proof
end

section
/-! Family 30_encoding.md, the 192 unsupported opcode bytes (R110): the opcode map answers nothing at exactly these, and
the step faults there. -/

namespace Sys2Proof

open Sys2Proof.Claims

/-- R110: no instruction of the map has an unsupported opcode byte. -/
theorem Instr.opcode_supported (i : Instr) : unsupportedByte i.opcode.toNat = false := by
  cases i <;> rfl

/-- R110, R107: every byte that is not listed is in the map. -/
theorem decodeBytes_of_supported :
    ∀ op : Byte, unsupportedByte op.toNat = false → (decodeBytes op 0#8 0#8).isSome = true := by
  decide

/-- R110: the map answers nothing at exactly the unsupported bytes, whatever bytes follow. -/
theorem decodeBytes_eq_none_iff {op b1 b2 : Byte} :
    decodeBytes op b1 b2 = none ↔ unsupportedByte op.toNat = true := by
  constructor
  · intro h
    by_contra hs
    obtain ⟨i, hi⟩ := Option.isSome_iff_exists.mp (decodeBytes_of_supported op (by simpa using hs))
    have hform := decodeBytes_form_of_some hi b1 b2
    rw [h] at hform
    cases hform
  · intro h
    cases hd : decodeBytes op b1 b2 with
    | none => rfl
    | some i =>
      obtain ⟨rfl, -⟩ := decodeBytes_some hd
      rw [i.opcode_supported] at h
      cases h

/-- R110: decoding an unsupported byte names it. -/
theorem decode_unsupported {op : Byte} (h : unsupportedByte op.toNat = true) (more : List Byte) :
    decode (op :: more) = .error (.unsupportedOpcode op) := by
  rw [decode, decodeBytes_eq_none_iff.mpr h]

end Sys2Proof

namespace Sys2Proof.Machine

open Sys2Proof.Claims

variable {s left : State}

/-- R205: an instruction that faults raises ReadOnlyViolation. -/
theorem exec_fault_readOnly {i : Instr} {f : Fault} (h : exec i s = .fault f) :
    ∃ addr left, f = .readOnlyViolation addr left := by
  rcases exec_fault h with ⟨n, -, hw⟩ | ⟨nn, -, hp⟩
  · exact ⟨_, _, (busWrite_fault hw).1⟩
  · rcases push16_fault hp with hf | ⟨u, -, hf⟩
    · exact ⟨_, _, hf⟩
    · exact ⟨_, _, hf⟩

/-- A step raises UnsupportedOpcode only where the map answers nothing: no instruction raises it (R204, R205). -/
theorem step_unsupportedOpcode {what : Unsupported} (h : step s = .fault (.unsupportedOpcode what left)) :
    unsupportedByte (busRead s.pc s).toNat = true := by
  rcases systemStep_fault h with ⟨hn, -⟩ | ⟨i, -, hx⟩
  · exact decodeBytes_eq_none_iff.mp hn
  · obtain ⟨addr, u, hf⟩ := exec_fault_readOnly hx
    cases hf

/-- The step at an unsupported byte faults at decode, with the state as it was (R110, R204). -/
theorem step_of_unsupportedByte (h : unsupportedByte (busRead s.pc s).toNat = true) :
    step s = .fault (.unsupportedOpcode (.opcode (busRead s.pc s)) s) := by
  rcases engineStep_cases s with ⟨-, he⟩ | ⟨i, hd, -⟩
  · rw [step, systemStep, he, andThen_fault]
  · rw [decodeBytes_eq_none_iff.mpr h] at hd
    cases hd

/-- Settles O3: the step faults at decode at the unsupported bytes, and UnsupportedOpcode comes from nowhere else. -/
theorem unsupportedBytesFaultAtDecode : Obligations.UnsupportedBytesFaultAtDecode :=
  ⟨fun _ => ⟨step_of_unsupportedByte, step_unsupportedOpcode⟩, rfl⟩

end Sys2Proof.Machine
end

section
/-! Family 30_encoding.md, the opcode bytes of LD r,r' (R103, R108) and the sample words of R107. -/

namespace Sys2Proof

open Sys2Proof.Claims

/-- The opcode byte R108 gives the copy `dst := src`, with code 0 for F, which has none. -/
def copyOpcode (dst src : Reg8) : Byte := BitVec.ofNat 8 (0x40 + 8 * dst.code.getD 0 + src.code.getD 0)

/-- R103, R108: at the opcode byte of a pair without F the map answers the LD r,r' of that pair. -/
theorem decodeBytes_copyOpcode {dst src : Reg8} (hdst : dst ≠ .f) (hsrc : src ≠ .f) :
    (decodeBytes (copyOpcode dst src) 0#8 0#8).map Instr.record =
      some { mnemonic := .known .ldRR, length := 1, operand := .regs dst src } := by
  revert hdst hsrc
  cases dst <;> cases src <;> decide

/-- R108: the opcode byte of an instruction with a register pair is made of the codes of its registers. -/
theorem opcode_of_regs {i : Instr} {dst src : Reg8} (h : i.operand = .regs dst src) :
    ∃ d r, dst.code = some d ∧ src.code = some r ∧ i.opcode.toNat = 0x40 + 8 * d + r := by
  cases i <;> cases h
  all_goals exact ⟨_, _, rfl, rfl, rfl⟩

/-- Settles O4: the formula, read off each pair; the pairs, from the map at the formula's bytes. -/
theorem loadRegisterOpcodeByte : Obligations.LoadRegisterOpcodeByte := by
  constructor
  · intro i dst src h
    obtain ⟨d, r, hd, hr, hop⟩ := opcode_of_regs h
    exact ⟨d, r, hd, hr, hop, by rw [encode, h, Operand.bytes]⟩
  · intro dst src hdst hsrc
    obtain ⟨i, -, hi⟩ := Option.map_eq_some_iff.mp (decodeBytes_copyOpcode hdst hsrc)
    obtain ⟨hm, -, ho⟩ := Record.mk.inj hi
    exact ⟨i, ho, RecordMnemonic.known.inj hm⟩

/-- Settles O5: eleven words are what the encoder writes, and two begin with an unsupported byte. -/
theorem sampleWordsDecode : Obligations.SampleWordsDecode := by
  have h := fun i => decodeOfEncodeIsIdentity i []
  exact ⟨h (.ldAn _), h (.addAn _), h .halt, h .ldBC, h .ldAA, h (.jp 0x0150#16), h (.jr _), h (.call 0x0108#16),
    h .ret, h (.ldhStore _), h (.ldhLoad _), decode_unsupported rfl _, decode_unsupported rfl _⟩

end Sys2Proof
end

section
/-! Family 40_alu.md, the arithmetic and logic instructions (R131 to R138): the state `writeAF` answers and the flags of
a byte of `mkF`, then the integer arithmetic of the rules in terms of bytes. -/

namespace Sys2Proof.Machine

open Sys2Proof.Claims

/-- R23: what the byte of the flags `z`, `n`, `h`, `c` holds; its low nibble is zero. -/
theorem flagsAre_mkF_iff {z n h c : Bool} {Z N H C : Prop} :
    FlagsAre (mkF z n h c) Z N H C ↔
      (z = true ↔ Z) ∧ (n = true ↔ N) ∧ (h = true ↔ H) ∧ (c = true ↔ C) := by
  have hlow : mkF z n h c &&& 0x0F#8 = 0#8 := by
    rw [← mkF_and_F0]
    exact and_F0_and_0F _
  rw [FlagsAre, ← flagZ, ← flagN, ← flagH, ← flagC, flagZ_mkF, flagN_mkF, flagH_mkF, flagC_mkF]
  simp only [hlow, and_true]

/-- R131: A, F and PC alone change, F by its masked write (R23). -/
theorem writeAF_eq (length : Nat) (v g : Byte) (s : State) :
    writeAF length v g s = .next { s with a := v, f := g &&& 0xF0#8, pc := s.pc + BitVec.ofNat 16 length } := by
  rw [← State.advance_pc_eq_add]
  rfl

/-- R131, with the result `v` as the byte `w` of a rule; the mask of F leaves a byte of `mkF` as it is. -/
theorem writeAF_mkF {length : Nat} {v w : Byte} {z n h c : Bool} {s : State} (hv : v = w) :
    writeAF length v (mkF z n h c) s =
      .next { s with a := w, f := mkF z n h c, pc := s.pc + BitVec.ofNat 16 length } := by
  rw [writeAF_eq, mkF_and_F0, hv]

/-- R133, R138: the difference on integers modulo 256 is the difference of bytes. -/
theorem ofInt_toNat_sub (a n : Byte) : BitVec.ofInt 8 ((a.toNat : Int) - n.toNat) = a - n := by
  rw [Int.sub_eq_add_neg, BitVec.ofInt_add, BitVec.ofInt_neg, BitVec.sub_eq_add_neg]
  simp

/-- R133, R138: the difference of two bytes is 0 modulo 256 when they are equal. -/
theorem toNat_sub_emod_eq_zero_iff (a n : Byte) : ((a.toNat : Int) - n.toNat) % 256 = 0 ↔ a = n := by
  have ha := a.isLt
  have hn := n.isLt
  rw [← BitVec.toNat_inj]
  omega

/-- R137: the increment is 0 modulo 256 at 0xFF alone. -/
theorem toNat_add_one_mod_eq_zero_iff (a : Byte) : (a.toNat + 1) % 256 = 0 ↔ a = 0xFF#8 := by
  have ha := a.isLt
  rw [← BitVec.toNat_inj, BitVec.toNat_ofNat]
  omega

/-- Settles O9: the sum of bytes; each flag is its condition. -/
theorem addImmediateResult : Obligations.AddImmediateResult := fun n s =>
  ⟨rfl, _, writeAF_mkF (BitVec.add_def s.a n).symm,
    flagsAre_mkF_iff.mpr ⟨beq_iff_eq, by simp, decide_eq_true_iff, decide_eq_true_iff⟩⟩

/-- Settles O10: the difference of bytes, which is 0 when they are equal; H and C are their conditions. -/
theorem subImmediateResult : Obligations.SubImmediateResult := fun n s =>
  ⟨rfl, _, writeAF_mkF (ofInt_toNat_sub s.a n),
    flagsAre_mkF_iff.mpr ⟨beq_iff_eq.trans (toNat_sub_emod_eq_zero_iff s.a n), by simp, decide_eq_true_iff,
      decide_eq_true_iff⟩⟩

/-- Settles O11: Z is its condition; H is set and N and C are clear. -/
theorem andImmediateResult : Obligations.AndImmediateResult := fun _ _ =>
  ⟨rfl, _, writeAF_mkF rfl, flagsAre_mkF_iff.mpr (by simp)⟩

/-- Settles O12: Z is its condition; the other flags are clear. -/
theorem orImmediateResult : Obligations.OrImmediateResult := fun _ _ =>
  ⟨rfl, _, writeAF_mkF rfl, flagsAre_mkF_iff.mpr ⟨beq_iff_eq, by simp⟩⟩

/-- Settles O13: the exclusive or of two bytes is 0 when they are equal; the other flags are clear. -/
theorem xorImmediateResult : Obligations.XorImmediateResult := fun _ _ =>
  ⟨rfl, _, writeAF_mkF rfl, flagsAre_mkF_iff.mpr ⟨beq_iff_eq.trans BitVec.xor_eq_zero_iff, by simp⟩⟩

/-- Settles O14: the sum with 1, which carries out of bit 3 from the nibble 0xF alone; C is bit 4 of the old F. -/
theorem incrementResult : Obligations.IncrementResult := by
  intro s
  have hh : decide (0x0F < s.a.toNat % 16 + 1) = true ↔ s.a.toNat % 16 = 0x0F := by
    rw [decide_eq_true_iff]
    omega
  exact ⟨rfl, _, writeAF_mkF (BitVec.add_def s.a 1#8).symm,
    flagsAre_mkF_iff.mpr ⟨beq_iff_eq.trans (toNat_add_one_mod_eq_zero_iff s.a), by simp, hh, Iff.rfl⟩⟩

/-- Settles O15: the difference with 1, which borrows from bit 4 at the nibble 0 alone; C is bit 4 of the old F. -/
theorem decrementResult : Obligations.DecrementResult := by
  intro s
  have hh : decide (s.a.toNat % 16 < 1) = true ↔ s.a.toNat % 16 = 0 := by
    rw [decide_eq_true_iff, Nat.lt_one_iff]
  exact ⟨rfl, _, writeAF_mkF (ofInt_toNat_sub s.a 1#8),
    flagsAre_mkF_iff.mpr ⟨beq_iff_eq.trans (toNat_sub_emod_eq_zero_iff s.a 1#8), by simp, hh, Iff.rfl⟩⟩

end Sys2Proof.Machine
end

section
/-! Family 41_load.md, the load instructions (R150 to R153): the next state of each, and which instructions fault (R205). -/

namespace Sys2Proof.Machine

open Sys2Proof.Claims

variable {i : Instr} {dst src : Reg8} {n : Byte} {addr : Word} {v : Byte} {s t : State} {f : Fault}

/-! ### LD r,r' and LD A,n -/

/-- R150: each of the 49 rows copies the source of its pair into the destination. -/
theorem exec_of_regs (h : i.operand = .regs dst src) (s : State) :
    exec i s = .next ((s.setReg8 dst (s.reg8 src)).advance 1) := by
  cases i <;> cases h
  all_goals rfl

/-- R103: F has no code, so it is the destination of no copy. -/
theorem dst_ne_f_of_regs (h : i.operand = .regs dst src) : dst ≠ .f := by
  rintro rfl
  obtain ⟨d, -, hd, -⟩ := opcode_of_regs h
  cases hd

/-- Settles O16: the destination, which is not F, takes the source, and the other registers are kept. -/
theorem loadRegisterResult : Obligations.LoadRegisterResult := by
  intro i dst src s h
  have hf := dst_ne_f_of_regs h
  have hkeep : ∀ r, r ≠ dst → ((s.setReg8 dst (s.reg8 src)).advance 1).reg8 r = s.reg8 r := by
    intro r hr
    rw [State.advance_reg8, State.reg8_setReg8_ne _ _ hr]
  refine ⟨_, exec_of_regs h s, ?_, hkeep, hkeep .f hf.symm, ?_, ?_⟩
  · rw [State.advance_reg8, State.reg8_setReg8, if_pos rfl, if_neg hf]
  · rw [State.advance_pc_eq_add, State.setReg8_pc]
  · simp [encode, h, Operand.bytes]

/-- The advance changes PC alone (R26). -/
theorem State.advance_eq (s : State) (length : Nat) :
    s.advance length = { s with pc := s.pc + BitVec.ofNat 16 length } :=
  congrArg s.setPc (s.advance_pc_eq_add length)

/-- Settles O17: A takes the byte and PC the advance. -/
theorem loadImmediateResult : Obligations.LoadImmediateResult := fun n s =>
  ⟨rfl, congrArg Host.Outcome.next (State.advance_eq (s.setReg8 .a n) 2)⟩

/-! ### LDH A,(n) -/

/-- A read of the page 0xFF00 is a read of the store (R64, R106). -/
theorem busRead_ioAddress (n : Byte) (s : State) : busRead (ioAddress n) s = s.peek (0xFF00#16 + n.setWidth 16) := by
  rw [busRead_of_usable ((isUnusable_eq_false_iff _).mp (isUnusable_ioAddress n)), target_ioAddress, ioAddress_eq_add]

/-- Settles O19: the bus read is a read of the store; A takes the byte and PC the advance. -/
theorem loadHighLoadResult : Obligations.LoadHighLoadResult := by
  intro n s
  refine ⟨rfl, ?_⟩
  rw [← busRead_ioAddress]
  exact congrArg Host.Outcome.next (State.advance_eq (s.setReg8 .a (busRead (ioAddress n) s)) 2)

/-! ### LDH (n),A -/

/-- R152: LDH (n),A is its bus write, then the advance. -/
theorem exec_ldhStore (n : Byte) (s : State) :
    exec (.ldhStore n) s = andThen (busWrite (ioAddress n) s.a s) fun t => .next (t.advance 2) := rfl

/-- A bus write that answers changes the store and `div_acc` alone (R66). -/
theorem busWrite_next_eq (hw : busWrite addr v s = .next t) :
    t = { s with
      mem := t.mem
      divAcc := if target addr = s.params.io.div ∧ ¬ Unusable addr then 0 else s.divAcc } := by
  obtain ⟨hreg, hpc, hsp, htima, hly, hparams⟩ := busWrite_frame hw
  exact State.ext_fields (fun r => (hreg r).trans (by cases r <;> rfl)) hpc hsp rfl (busWrite_divAcc hw) htima hly hparams

/-- At LY the write faults, and so does LDH (n),A, with the state as it was (R66, R152). -/
theorem exec_ldhStore_ly (h : s.params.WF) (hn : ioAddress n = s.params.io.ly) :
    exec (.ldhStore n) s = .fault (.readOnlyViolation (ioAddress n) s) := by
  obtain ⟨hio, -⟩ := h
  rw [exec_ldhStore, hn, busWrite_ly hio, andThen_fault]

/-- Outside LY the write answers, for the page 0xFF00 lies outside ROM; no address in it stands for another or is
unusable (R61, R63, R66). -/
theorem busWrite_ioAddress (hn : ioAddress n ≠ s.params.io.ly) (v : Byte) :
    ∃ t, busWrite (ioAddress n) v s = .next t ∧
      t = { s with mem := t.mem, divAcc := if ioAddress n = s.params.io.div then 0 else s.divAcc } := by
  have hrom : 0x8000 ≤ (ioAddress n).toNat := by
    rw [ioAddress_toNat]
    omega
  have hu : ¬ Unusable (ioAddress n) := (isUnusable_eq_false_iff _).mp (isUnusable_ioAddress n)
  obtain ⟨t, hw⟩ := busWrite_answers hrom (by rwa [target_ioAddress]) v
  have ht := busWrite_next_eq hw
  simp only [target_ioAddress, hu, not_false_eq_true, and_true] at ht
  exact ⟨t, hw, ht⟩

/-- Settles O18: at LY the bus write faults; elsewhere it answers, and its bytes are those of R66. -/
theorem loadHighStoreResult : Obligations.LoadHighStoreResult := by
  intro n s
  rw [← ioAddress_eq_add]
  refine ⟨rfl, fun hn hp => exec_ldhStore_ly hp hn, fun hn => ?_⟩
  obtain ⟨t, hw, ht⟩ := busWrite_ioAddress hn s.a
  refine ⟨t.advance 2, by rw [exec_ldhStore, hw, andThen_next], ?_,
    fun b => (State.advance_peek t 2 b).trans (busWrite_peek hw b)⟩
  rw [State.advance_eq, ht]

/-! ### Which instructions fault -/

/-- A bus write to the page 0xFF00 faults at LY alone (R152, R205). -/
theorem busWrite_ioAddress_fault (hw : busWrite (ioAddress n) v s = .fault f) :
    ioAddress n = s.params.io.ly ∧ f = .readOnlyViolation (ioAddress n) s := by
  obtain ⟨hf, -, hlow | ⟨hly, -⟩⟩ := busWrite_fault hw
  · rw [ioAddress_toNat] at hlow
    omega
  · exact ⟨resolve_ioAddress n ▸ hly, hf⟩

/-- A push faults at one of its two writes, SP - 1 and SP - 2 (R170, R205). -/
theorem push16_fault_readOnly {x : Word} (hp : push16 x s = .fault f) :
    ∃ addr left, f = .readOnlyViolation addr left ∧ (addr = s.sp - 1#16 ∨ addr = s.sp - 2#16) := by
  rcases push16_fault hp with hf | ⟨u, -, hf⟩
  · exact ⟨_, _, hf, .inl rfl⟩
  · exact ⟨_, _, hf, .inr rfl⟩

/-- Settles O30: LDH (n),A faults as its bus write does, CALL as its push; a step faults as its engine step does. -/
theorem faultsPerInstruction : Obligations.FaultsPerInstruction := by
  constructor
  · intro i s f hx
    rcases exec_fault hx with ⟨n, hi, hw⟩ | ⟨nn, hi, hp⟩
    · obtain ⟨hly, hf⟩ := busWrite_ioAddress_fault hw
      rw [ioAddress_eq_add] at hly hf
      exact .inl ⟨n, hi, hly, hf⟩
    · obtain ⟨addr, left, hf⟩ := push16_fault_readOnly hp
      exact .inr ⟨nn, addr, left, hi, hf⟩
  · intro s f hs
    rcases systemStep_fault hs with ⟨hn, hf⟩ | ⟨i, hd, hx⟩
    · exact .inl ⟨decodeBytes_eq_none_iff.mp hn, hf⟩
    · exact .inr ⟨i, ⟨_, hd⟩, hx⟩

end Sys2Proof.Machine
end

section
/-! Family 42_control.md, JP, JR and RET (R173, R174, R176): the next state of each. -/

namespace Sys2Proof.Machine

/-- Settles O20: JP writes PC alone. -/
theorem jumpResult : Obligations.JumpResult := fun _ _ => ⟨rfl, rfl⟩

/-- R174: JR writes PC alone, with its target in the arithmetic of words. -/
theorem exec_jr (e : Byte) (s : State) :
    exec (.jr e) s =
      .next { s with pc := s.pc + BitVec.ofNat 16 (jrBaseValue s.params.jrBase) + e.signExtend 16 } := by
  rw [← relTarget_eq]
  rfl

/-- Settles O21: at either value of `JR_BASE` the target has its term, which is 0 or 2. -/
theorem jumpRelativeResult : Obligations.JumpRelativeResult := by
  refine fun e s => ⟨rfl, fun hbase => ?_, fun hbase => ?_⟩
  · rw [exec_jr, hbase, jrBaseValue, BitVec.add_zero]
  · rw [exec_jr, hbase, jrBaseValue]

/-- SP is no part of a read (R64). -/
@[simp] theorem busRead_setSp (addr sp : Word) (s : State) : busRead addr (s.setSp sp) = busRead addr s := rfl

/-- R176: RET is its pop, then PC. -/
theorem exec_ret (s : State) : exec .ret s = .next ((pop16 s).2.setPc (pop16 s).1) := rfl

/-- Settles O23: the pop reads its two bytes from one store. -/
theorem returnResult : Obligations.ReturnResult := by
  intro s
  refine ⟨rfl, ?_⟩
  rw [exec_ret, pop16_eq, busRead_setSp]
  rfl

end Sys2Proof.Machine
end

section
/-! Family 42_control.md, the push of CALL (R170, R175): which of its two writes fault, and what it leaves. -/

namespace Sys2Proof.Machine

open Sys2Proof.Claims

variable {addr nn v : Word} {k : Nat} {s u : State}

/-! ### The bus where a push writes -/

/-- A peripheral register is the target of its own address alone (R31, R63). -/
theorem target_eq_register_iff {io : IoAddr} {reg : Word} (h : io.WF) (hmem : reg ∈ io.all) :
    target addr = reg ↔ addr = reg := by
  obtain ⟨hlow, -⟩ := h.range hmem
  exact target_eq_iff_of_page hlow

/-- In ROM and at LY a bus write faults and leaves the state as it was (R202). -/
theorem busWrite_of_pushFaults (h : s.params.io.WF) (hf : PushFaults s.params.io addr) (b : Byte) :
    busWrite addr b s = .fault (.readOnlyViolation addr s) := by
  rcases hf with hrom | rfl
  · exact busWrite_rom hrom
  · exact busWrite_ly h

/-- Elsewhere it answers, and changes the store and, at DIV, `div_acc` (R66). -/
theorem busWrite_of_not_pushFaults (h : s.params.io.WF) (hf : ¬ PushFaults s.params.io addr) (b : Byte) :
    ∃ t, busWrite addr b s = .next t ∧
      t = { s with mem := t.mem, divAcc := if addr = s.params.io.div then 0 else s.divAcc } := by
  obtain ⟨hrom, hly⟩ := not_or.mp hf
  obtain ⟨t, hw⟩ := busWrite_answers (Nat.le_of_not_lt hrom)
    (mt (target_eq_register_iff h (by simp [IoAddr.all])).mp hly) b
  have hdiv : (target addr = s.params.io.div ∧ ¬ Unusable addr) ↔ addr = s.params.io.div := by
    rw [target_eq_register_iff h (by simp [IoAddr.all]), and_iff_left_iff_imp]
    rintro rfl
    obtain ⟨-, hu, -⟩ := io_plain h (addr := s.params.io.div) (by simp [IoAddr.all])
    exact hu
  have ht := busWrite_next_eq hw
  simp only [hdiv] at ht
  exact ⟨t, hw, ht⟩

/-! ### The push -/

/-- R170: after a first write that answers, the push is its second write. -/
theorem push16_of_first_write (hw : busWrite (s.sp - 1#16) (hiByte v) (s.setSp (s.sp - 1#16)) = .next u) :
    push16 v s = busWrite (s.sp - 2#16) (loByte v) (u.setSp (s.sp - 2#16)) := by
  obtain ⟨-, -, hsp, -⟩ := busWrite_frame hw
  have he : u.sp - 1#16 = s.sp - 2#16 := by
    rw [hsp, State.setSp_sp, BitVec.sub_sub]
    rfl
  rw [push16, pushByte, State.setSp_sp, hw, andThen_next, pushByte, State.setSp_sp, he]

/-- The first write of a push faults in ROM and at LY, with SP decremented once (R170, R207 (4)). -/
theorem push16_first_fault (h : s.params.io.WF) (hf : PushFaults s.params.io (s.sp - 1#16)) (v : Word) :
    push16 v s = .fault (.readOnlyViolation (s.sp - 1#16) (s.setSp (s.sp - 1#16))) := by
  rw [push16, pushByte, State.setSp_sp, busWrite_of_pushFaults (s := s.setSp (s.sp - 1#16)) h hf, andThen_fault]

/-- Elsewhere the push is its second write, in the state with the high byte stored (R170). -/
theorem push16_second_write (h : s.params.io.WF) (hf : ¬ PushFaults s.params.io (s.sp - 1#16)) (v : Word) :
    ∃ u, push16 v s = busWrite (s.sp - 2#16) (loByte v) u ∧
      u = { s with
        sp := s.sp - 2#16, mem := u.mem
        divAcc := if s.sp - 1#16 = s.params.io.div then 0 else s.divAcc } ∧
      ∀ b, u.peek b = bytesAfter s.params.io s.peek (s.sp - 1#16) (hiByte v) b := by
  obtain ⟨u, hw, hu⟩ := busWrite_of_not_pushFaults (s := s.setSp (s.sp - 1#16)) h hf (hiByte v)
  exact ⟨u.setSp (s.sp - 2#16), push16_of_first_write hw, congrArg (State.setSp · (s.sp - 2#16)) hu,
    (busWrite_peek hw :)⟩

/-! ### CALL -/

/-- The return address in the arithmetic of words (R175). -/
theorem callTo_eq (k : Nat) (nn : Word) (s : State) :
    callTo k nn s = andThen (push16 (s.pc + BitVec.ofNat 16 k) s) fun t => .next (t.setPc nn) := by
  rw [callTo, BitVec.ofNat_add, BitVec.ofNat_toNat, BitVec.setWidth_eq]

/-- R175: CALL has length 3. -/
theorem exec_call (nn : Word) (s : State) : exec (.call nn) s = callTo 3 nn s := rfl

/-- R175, for any length: the first write faults with nothing stored. -/
theorem callTo_first_fault (h : s.params.io.WF) (hf : PushFaults s.params.io (s.sp - 1#16)) :
    callTo k nn s = .fault (.readOnlyViolation (s.sp - 1#16) { s with sp := s.sp - 1#16 }) := by
  rw [callTo, push16_first_fault h hf, andThen_fault]
  rfl

/-- R175, for any length: the second write faults with the high byte stored. -/
theorem callTo_second_fault (h : s.params.io.WF) (h1 : ¬ PushFaults s.params.io (s.sp - 1#16))
    (h2 : PushFaults s.params.io (s.sp - 2#16)) :
    ∃ left, callTo k nn s = .fault (.readOnlyViolation (s.sp - 2#16) left) ∧
      left = { s with
        sp := s.sp - 2#16, mem := left.mem
        divAcc := if s.sp - 1#16 = s.params.io.div then 0 else s.divAcc } ∧
      ∀ b, left.peek b = bytesAfter s.params.io s.peek (s.sp - 1#16)
        ((s.pc + BitVec.ofNat 16 k).extractLsb' 8 8) b := by
  obtain ⟨u, hp, hu, hb⟩ := push16_second_write h h1 (s.pc + BitVec.ofNat 16 k)
  have hparams : u.params = s.params := by rw [hu]
  refine ⟨u, ?_, hu, hb⟩
  rw [callTo_eq, hp, busWrite_of_pushFaults (hparams ▸ h) (hparams ▸ h2), andThen_fault]

/-- R175, for any length: both writes answer, and PC is set after them. -/
theorem callTo_answers (h : s.params.io.WF) (h1 : ¬ PushFaults s.params.io (s.sp - 1#16))
    (h2 : ¬ PushFaults s.params.io (s.sp - 2#16)) :
    ∃ t, callTo k nn s = .next t ∧
      t = { s with
        pc := nn, sp := s.sp - 2#16, mem := t.mem
        divAcc := if s.sp - 1#16 = s.params.io.div ∨ s.sp - 2#16 = s.params.io.div then 0 else s.divAcc } ∧
      ∀ b, t.peek b = bytesAfter s.params.io
        (bytesAfter s.params.io s.peek (s.sp - 1#16) ((s.pc + BitVec.ofNat 16 k).extractLsb' 8 8))
        (s.sp - 2#16) ((s.pc + BitVec.ofNat 16 k).extractLsb' 0 8) b := by
  obtain ⟨u, hp, hu, hb⟩ := push16_second_write h h1 (s.pc + BitVec.ofNat 16 k)
  have hparams : u.params = s.params := by rw [hu]
  obtain ⟨t, hw, ht⟩ := busWrite_of_not_pushFaults (hparams ▸ h) (hparams ▸ h2) (loByte (s.pc + BitVec.ofNat 16 k))
  refine ⟨t.setPc nn, by rw [callTo_eq, hp, hw, andThen_next], ?_, fun b => ?_⟩
  · rw [hu] at ht
    rw [if_congr or_comm rfl rfl, ite_or]
    exact congrArg (State.setPc · nn) ht
  · rw [State.setPc_peek, busWrite_peek hw, hparams, funext hb]
    rfl

/-- Settles O22: neither write faults, or the first does, or the second alone. -/
theorem callResult : Obligations.CallResult := by
  rintro nn s ⟨h, -⟩
  exact ⟨rfl, callTo_first_fault h, callTo_second_fault h, callTo_answers h⟩

end Sys2Proof.Machine
end

section
/-! Family 42_control.md, the pop of RET after the push of CALL (R172). -/

namespace Sys2Proof.Machine

open Sys2Proof.Claims

variable {addr w : Word} {b : Byte} {s t : State}

/-- An address and the next stand for two different addresses, at the ends of the echo range too (R63). -/
theorem target_add_one_ne (addr : Word) : target (addr + 1#16) ≠ target addr := by
  have ha := addr.isLt
  intro h
  have hn := congrArg BitVec.toNat h
  rw [← resolve_eq_target, ← resolve_eq_target, resolve_toNat, resolve_toNat, BitVec.toNat_add, BitVec.toNat_ofNat] at hn
  split at hn <;> split at hn <;> omega

/-- A bus write keeps what is read at an address that stands for another byte (R63, R65). -/
theorem busRead_after_busWrite_ne (hw : busWrite addr b s = .next t) (hne : target w ≠ target addr) :
    busRead w t = busRead w s := by
  by_cases hu : Unusable w
  · rw [busRead_of_unusable hu, busRead_of_unusable hu]
  · rw [busRead_of_usable hu, busRead_of_usable hu, busWrite_peek hw, bytesAfter_of_ne hne]

/-- The pop reads its high byte where the push wrote it (R170, R171). -/
theorem sp_sub_two_add_one (sp : Word) : sp - 2#16 + 1#16 = sp - 1#16 := by
  bv_omega

/-- At a plain address a write answers, and its byte is read back there (R83). -/
theorem busWrite_readBack (h : s.params.io.WF) (hp : Plain s.params.io addr) (b : Byte) :
    ∃ t, busWrite addr b s = .next t ∧ busRead addr t = b := by
  have ⟨_, hu, _⟩ := hp
  exact busWrite_roundTrip h hp rfl hu b

/-- At plain addresses a push answers, and each of its two bytes is read back (R170, R172). -/
theorem push16_readBack (h : s.params.io.WF) (h1 : Plain s.params.io (s.sp - 1#16))
    (h2 : Plain s.params.io (s.sp - 2#16)) (v : Word) :
    ∃ t, push16 v s = .next t ∧ busRead (s.sp - 2#16) t = loByte v ∧ busRead (s.sp - 1#16) t = hiByte v := by
  obtain ⟨u, hw1, hr1⟩ := busWrite_readBack (s := s.setSp (s.sp - 1#16)) h h1 (hiByte v)
  obtain ⟨-, -, -, -, -, hparams⟩ := busWrite_frame hw1
  obtain ⟨t, hw2, hr2⟩ := busWrite_readBack (s := u.setSp (s.sp - 2#16)) (hparams ▸ h) (hparams ▸ h2) (loByte v)
  have hne : target (s.sp - 1#16) ≠ target (s.sp - 2#16) := sp_sub_two_add_one s.sp ▸ target_add_one_ne (s.sp - 2#16)
  refine ⟨t, (push16_of_first_write hw1).trans hw2, hr2, ?_⟩
  rw [busRead_after_busWrite_ne hw2 hne, busRead_setSp, hr1]

/-- R172: a pop after the push gives the word and the old SP. -/
theorem pop16_after_push16 (h : s.params.io.WF) (h1 : Plain s.params.io (s.sp - 1#16))
    (h2 : Plain s.params.io (s.sp - 2#16)) (v : Word) :
    ∃ t, push16 v s = .next t ∧ t.sp = s.sp - 2#16 ∧ pop16 t = (v, t.setSp s.sp) := by
  obtain ⟨t, hp, hlo, hhi⟩ := push16_readBack h h1 h2 v
  obtain ⟨-, -, hsp, -⟩ := push16_frame hp
  refine ⟨t, hp, hsp, ?_⟩
  rw [pop16_eq, busRead_setSp, hsp, sp_sub_two_add_one, hlo, hhi, wordOf_hi_lo, BitVec.sub_add_cancel]

/-- PC is no part of a pop (R171). -/
theorem pop16_setPc (s : State) (pc : Word) : pop16 (s.setPc pc) = ((pop16 s).1, (pop16 s).2.setPc pc) := rfl

/-- Settles O24: RET is the pop after the push of CALL, and the PC that CALL set is no part of it. -/
theorem popUndoesPush : Obligations.PopUndoesPush := by
  rintro s ⟨h, -⟩ h1 h2
  refine ⟨fun v => ?_, fun nn => ?_⟩
  · obtain ⟨t, hp, -, hpop⟩ := pop16_after_push16 h h1 h2 v
    exact ⟨t, hp, by rw [hpop], by rw [hpop, State.setSp_sp]⟩
  · obtain ⟨t, hp, hsp, hpop⟩ := pop16_after_push16 h h1 h2 (s.pc + 3#16)
    refine ⟨t.setPc nn, _, by rw [exec_call, callTo_eq, hp, andThen_next], rfl, hsp, exec_ret _, ?_, ?_⟩
    · rw [pop16_setPc, hpop, State.setPc_pc]
    · rw [pop16_setPc, hpop, State.setPc_sp, State.setPc_sp, State.setSp_sp]

end Sys2Proof.Machine
end

section
/-! Family 43_system.md: HALT (R190), the engine step and the system step at a decoded instruction (R193, R240), and
direct execution at the test port (R195). -/

namespace Sys2Proof.Machine

open Sys2Proof.Claims

variable {i : Instr} {m : Mnemonic} {k : Nat} {o : Operand} {s t : State}

/-- Settles O25: HALT is the advance by its length, which changes PC alone. -/
theorem haltIsNoOperation : Obligations.HaltIsNoOperation := fun s =>
  ⟨rfl, congrArg Host.Outcome.next (State.advance_eq s 1)⟩

/-! ### The engine step and the system step -/

/-- R193: at a decoded instruction the engine step is its execution, with the cost of its mnemonic. -/
theorem engineStep_of_fetchesAs (h : FetchesAs s i) :
    engineStep s = andThen (exec i s) fun t => .next (t, cyclesOf s.params.cost i.mnemonic) := by
  obtain ⟨rest, hd⟩ := h
  rw [engineStep, fetchBytes, hd]

/-- R193: an engine step that answers has decoded an instruction, for outside the opcode map it faults. -/
theorem fetchesAs_of_engineStep_next {r : State × Nat} (h : engineStep s = .next r) : ∃ i, FetchesAs s i := by
  rcases engineStep_cases s with ⟨-, he⟩ | ⟨i, -, hd, -⟩
  · rw [he] at h
    cases h
  · exact ⟨i, _, hd⟩

/-- Settles O8: an engine step that answers is the execution of the decoded instruction. -/
theorem engineStepReturnsFixedCost : Obligations.EngineStepReturnsFixedCost := by
  intro s t c
  constructor
  · intro h
    obtain ⟨i, hi⟩ := fetchesAs_of_engineStep_next h
    rw [engineStep_of_fetchesAs hi] at h
    obtain ⟨u, hx, hu⟩ := andThen_eq_next.mp h
    cases hu
    exact ⟨i, hi, hx, rfl⟩
  · rintro ⟨i, hi, hx, rfl⟩
    rw [engineStep_of_fetchesAs hi, hx, andThen_next]

/-- Settles O7: the peripherals run after an engine step that answers; a fault of the instruction ends the step. -/
theorem stepRunsDecodedInstruction : Obligations.StepRunsDecodedInstruction := by
  intro s i hi
  refine ⟨fun t hx => ?_, fun f hx => ?_⟩
  · rw [step, systemStep, engineStep_of_fetchesAs hi, hx, andThen_next, andThen_next, peripherals]
  · rw [step, systemStep, engineStep_of_fetchesAs hi, hx, andThen_fault, andThen_fault]

/-! ### Direct execution -/

/-- R195: with a mnemonic of the sixteen, direct execution is the meaning of the record's fields, with the cost. -/
theorem directExecute_known (m : Mnemonic) (k : Nat) (o : Operand) (s : State) :
    directExecute { mnemonic := .known m, length := k, operand := o } s =
      andThen (executeFields m k o s) fun t => .next (t, cyclesOf s.params.cost m) := rfl

/-- R194, R195: the fields of an instruction's record mean what the instruction does. -/
theorem executeFields_of_instr (i : Instr) (s : State) :
    executeFields i.mnemonic i.length i.operand s = exec i s := by
  cases i <;> rfl

/-- R195: on the record decode would build, direct execution is the instruction, with its cost. -/
theorem directExecute_record (i : Instr) (s : State) :
    directExecute i.record s = andThen (exec i s) fun t => .next (t, cyclesOf s.params.cost i.mnemonic) := by
  rw [Instr.record, directExecute_known, executeFields_of_instr]

theorem writeAF_next_pc {v g : Byte} (h : writeAF k v g s = .next t) : t.pc = s.pc + BitVec.ofNat 16 k := by
  rw [writeAF_eq] at h
  cases h
  rfl

theorem ldhStore_next_pc {n : Byte} (h : ldhStore k n s = .next t) : t.pc = s.pc + BitVec.ofNat 16 k := by
  obtain ⟨u, hw, hu⟩ := andThen_eq_next.mp h
  obtain ⟨-, hpc, -⟩ := busWrite_frame hw
  cases hu
  rw [State.advance_pc_eq_add, hpc]

theorem executeFields_ldRR_next_pc {dst src : Reg8} (h : executeFields .ldRR k (.regs dst src) s = .next t) :
    t.pc = s.pc + BitVec.ofNat 16 k := by
  rw [executeFields_ldRR] at h
  split at h
  · cases h
  · cases h
    rw [State.advance_pc_eq_add, State.setReg8_pc]

/-- R26, R195: at a mnemonic that is not control flow, PC advances by the record's length, whatever it is. -/
theorem executeFields_next_pc (h : executeFields m k o s = .next t) (hjp : m ≠ .jp) (hjr : m ≠ .jr)
    (hcall : m ≠ .call) (hret : m ≠ .ret) : t.pc = s.pc + BitVec.ofNat 16 k := by
  cases m <;> cases o
  case jp.addr16 => exact absurd rfl hjp
  case jr.rel8 => exact absurd rfl hjr
  case call.addr16 => exact absurd rfl hcall
  case ret.none => exact absurd rfl hret
  case add.imm8 | sub.imm8 | and.imm8 | or.imm8 | xor.imm8 | incA.none | decA.none => exact writeAF_next_pc h
  case ldRR.regs => exact executeFields_ldRR_next_pc h
  case ldhStore.ioOffset8 => exact ldhStore_next_pc h
  case ldAn.imm8 | ldhLoad.ioOffset8 | halt.none =>
    cases h
    exact State.advance_pc_eq_add _ k
  all_goals cases h

/-- R175, R195: a record of CALL pushes PC and its own length. -/
theorem directExecute_call (k : Nat) (nn : Word) (s : State) :
    directExecute { mnemonic := .known .call, length := k, operand := .addr16 nn } s =
      andThen (callTo k nn s) fun t => .next (t, s.params.cost.call) := rfl

/-- Settles O41: the record of an instruction is its meaning; the advance and CALL take any length. -/
theorem directExecutionAgrees : Obligations.DirectExecutionAgrees := by
  refine ⟨fun i s => ⟨fun t hx => ?_, fun f hx => ?_⟩, fun _ _ _ _ => rfl, ?_, ?_⟩
  · rw [directExecute_record, hx, andThen_next]
  · rw [directExecute_record, hx, andThen_fault]
  · intro m k o s t c hjp hjr hcall hret h
    rw [directExecute_known] at h
    obtain ⟨u, hx, hu⟩ := andThen_eq_next.mp h
    cases hu
    exact executeFields_next_pc hx hjp hjr hcall hret
  · rintro k nn s ⟨hio, -⟩ h1
    rw [directExecute_call]
    refine ⟨fun h2 => ?_, fun h2 => ?_⟩
    · obtain ⟨left, hx, -, hb⟩ := callTo_second_fault hio h1 h2
      exact ⟨left, by rw [hx, andThen_fault], hb⟩
    · obtain ⟨t, hx, ht, hb⟩ := callTo_answers hio h1 h2
      exact ⟨t, by rw [hx, andThen_next], by rw [ht], by rw [ht], hb⟩

end Sys2Proof.Machine
end

section
/-! Family 60_exceptions.md, the faults (R201, R203, R207) and `SetReg` (R246). -/

namespace Sys2Proof.Machine

open Sys2Proof.Claims

variable {s : State} {f : Fault}

/-! ### What a fault leaves -/

/-- A push that faults leaves SP decremented once with nothing stored, or twice with the high byte stored (R170,
R207 (4)). -/
theorem push16_fault_left {v : Word} (h : push16 v s = .fault f) :
    f.left = { s with sp := s.sp - 1#16 } ∨
    (f.left = { s with
      sp := s.sp - 2#16, mem := f.left.mem
      divAcc := if target (s.sp - 1#16) = s.params.io.div ∧ ¬ Unusable (s.sp - 1#16) then 0 else s.divAcc } ∧
      ∀ b, f.left.peek b = bytesAfter s.params.io s.peek (s.sp - 1#16) (hiByte v) b) := by
  rcases push16_fault h with rfl | ⟨u, hw, rfl⟩
  · exact .inl rfl
  · exact .inr ⟨congrArg (State.setSp · (s.sp - 2#16)) (busWrite_next_eq hw), (busWrite_peek hw :)⟩

/-- An instruction that faults leaves the state as it was, but for CALL, whose push may have begun (R205, R207 (4)). -/
theorem exec_fault_left {i : Instr} (h : exec i s = .fault f) :
    f.left = s ∨ ∃ nn, i = .call nn ∧ push16 (s.pc + 3#16) s = .fault f := by
  rcases exec_fault h with ⟨n, -, hw⟩ | ⟨nn, hi, hp⟩
  · obtain ⟨rfl, -⟩ := busWrite_fault hw
    exact .inl rfl
  · rw [BitVec.ofNat_add, BitVec.ofNat_toNat, BitVec.setWidth_eq] at hp
    exact .inr ⟨nn, hi, hp⟩

/-- Settles O32: the run ends at its first step; a fault at decode or of LDH (n),A leaves the state as it was, one of CALL
what its push left. -/
theorem faultLeavesStateUnrolled : Obligations.FaultLeavesStateUnrolled := by
  intro s f hs
  refine ⟨fun n => run_succ_fault hs, ?_⟩
  rcases systemStep_fault hs with ⟨-, rfl⟩ | ⟨i, hd, hx⟩
  · exact .inl rfl
  · refine (exec_fault_left hx).imp_right ?_
    rintro ⟨nn, rfl, hp⟩
    exact ⟨nn, ⟨_, hd⟩, push16_fault_left hp⟩

/-! ### The faults of the host port -/

/-- A step raises UnsupportedOpcode or ReadOnlyViolation (R205). -/
theorem step_fault_kind (h : step s = .fault f) :
    (∃ what left, f = .unsupportedOpcode what left) ∨ ∃ addr left, f = .readOnlyViolation addr left := by
  rcases systemStep_fault h with ⟨-, hf⟩ | ⟨i, -, hx⟩
  · exact .inl ⟨_, _, hf⟩
  · exact .inr (exec_fault_readOnly hx)

theorem step_ne_invalidValue (s left : State) (value : Int) : step s ≠ .fault (.invalidValue value left) := by
  intro h
  rcases step_fault_kind h with ⟨_, _, hf⟩ | ⟨_, _, hf⟩ <;> cases hf

theorem step_ne_invalidAddress (s left : State) (addr : Int) : step s ≠ .fault (.invalidAddress addr left) := by
  intro h
  rcases step_fault_kind h with ⟨_, _, hf⟩ | ⟨_, _, hf⟩ <;> cases hf

/-- Settles O37: the value is the first test of the host port's write, and a step raises two other kinds. -/
theorem invalidValueOnlyAtHostPort : Obligations.InvalidValueOnlyAtHostPort :=
  ⟨fun _ _ _ hv => if_pos hv, step_ne_invalidValue⟩

/-- Settles O38: the address is the test of the host port's read, and of its write once the value has passed; a step
raises two other kinds. -/
theorem invalidAddressOnlyAtHostPort : Obligations.InvalidAddressOnlyAtHostPort := by
  refine ⟨fun addr s ha => ⟨if_pos ha, fun value h0 h255 => ?_⟩, step_ne_invalidAddress⟩
  rw [hostWrite, if_neg (by omega), if_pos ha, raise_eq]

/-! ### SetReg -/

theorem ofInt_toNat_eq_emod (n : Nat) (v : Int) : ((BitVec.ofInt n v).toNat : Int) = v % (2 ^ n : Nat) := by
  rw [BitVec.toNat_ofInt, Int.toNat_of_nonneg (Int.emod_nonneg _ (by positivity))]

/-- The mask of F clears the low nibble (R23). -/
theorem and_F0_toNat : ∀ v : Byte, (v &&& 0xF0#8).toNat = v.toNat / 16 * 16 := by
  decide

theorem setReg_reg8 (r : Reg8) (v : Int) (s : State) : setReg (.reg8 r) v s = s.setReg8 r (BitVec.ofInt 8 v) := rfl

/-- Settles O40: an 8-bit register is written through its masked accessor, PC and SP alone. -/
theorem setRegMasks : Obligations.SetRegMasks := by
  intro v s
  refine ⟨fun r => ⟨fun hf => ?_, fun q hq => State.reg8_setReg8_ne s _ hq, by simp [setReg_reg8]⟩, ?_,
    ⟨ofInt_toNat_eq_emod 16 v, rfl⟩, ofInt_toNat_eq_emod 16 v, rfl⟩
  · rw [setReg_reg8, State.reg8_setReg8, if_pos rfl, if_neg hf]
    exact ofInt_toNat_eq_emod 8 v
  · rw [setReg_reg8, State.setReg8_f_f, and_F0_toNat, Nat.cast_mul, Int.natCast_ediv, ofInt_toNat_eq_emod]
    rfl

end Sys2Proof.Machine
end

section
/-! Family 60_exceptions.md, the Timer (R220 to R226): the bytes and accumulators its steps leave, in closed form, and that
they do not depend on how the cycles are split. -/

namespace Sys2Proof.Machine

open Sys2Proof.Claims

variable {c d : Nat} {s t : State}

/-! ### Loops and stores -/

/-- What the turns of a loop do to one byte: each applies `g`, in the states `P` that the turns keep. -/
theorem iterate_peek (tick : State → State) (P : State → Prop) {g : Byte → Byte} {a : Word}
    (hkeep : ∀ t, P t → P (tick t)) (hg : ∀ t, P t → (tick t).peek a = g (t.peek a)) (hs : P s) (k : Nat) :
    (tick^[k] s).peek a = g^[k] (s.peek a) := by
  induction k with
  | zero => rfl
  | succ k ih => rw [Function.iterate_succ_apply', Function.iterate_succ_apply', hg _ (iterate_keeps hkeep hs k), ih]

/-- The turns of one loop after those of another, which left its remainder: as many as of one loop. -/
theorem div_add_mod_add_div {p : Nat} (hp : 0 < p) (acc d : Nat) : acc / p + (acc % p + d) / p = (acc + d) / p := by
  conv_rhs => rw [← Nat.mod_add_div acc p, Nat.add_right_comm, Nat.add_mul_div_left _ _ hp, Nat.add_comm]

/-- An address that is not listed reads as the default (log 2). -/
theorem Memory.read_of_not_listed {m : Memory} {a : Nat} (h : ∀ cell ∈ m, cell.1 ≠ a) : m.read a = unlistedByte := by
  have he : m.erase a = m := List.filter_eq_self.mpr (by simpa using h)
  rw [← he, Memory.read_erase_self]

/-- Canonical stores with equal bytes at every address are equal. -/
theorem mem_eq_of_peek (hs : s.mem.wf) (ht : t.mem.wf) (h : ∀ b, t.peek b = s.peek b) : t.mem = s.mem := by
  refine Memory.ext_of_wf ht hs fun a => ?_
  by_cases ha : a < 65536
  · have hb := h (BitVec.ofNat 16 a)
    rwa [State.peek, State.peek, BitVec.toNat_ofNat, Nat.mod_eq_of_lt ha] at hb
  · rw [Memory.read_of_not_listed fun cell hc => ?_, Memory.read_of_not_listed fun cell hc => ?_]
    · have := (hs.2 cell hc).2
      omega
    · have := (ht.2 cell hc).2
      omega

/-- TIMA, TMA and TAC are not DIV, and TMA and TAC are not TIMA (R31). -/
theorem timer_registers_ne {io : IoAddr} (h : io.WF) :
    io.tima ≠ io.div ∧ io.tma ≠ io.div ∧ io.tma ≠ io.tima ∧ io.tac ≠ io.div ∧ io.tac ≠ io.tima := by
  have hd := h.distinct
  simp only [List.nodup_cons, List.mem_cons, not_or] at hd
  tauto

/-! ### The divider -/

theorem divTick_peek (s : State) : (divTick s).peek s.params.io.div = s.peek s.params.io.div + 1#8 := by
  rw [divTick, State.peek_poke_self, BitVec.ofNat_add, BitVec.ofNat_toNat, BitVec.setWidth_eq]

theorem divTick_iterate_peek (s : State) (k : Nat) :
    (divTick^[k] s).peek s.params.io.div = s.peek s.params.io.div + BitVec.ofNat 8 k := by
  rw [iterate_peek divTick (fun t => t.params = s.params) (g := (· + 1#8)) (fun _ h => h)
    (fun t h => h ▸ divTick_peek t) rfl, add_right_iterate_apply]
  simp

/-- Part 1 of R222 changes DIV and `div_acc`. -/
theorem dividerStep_peek (c : Nat) (s : State) (b : Word) :
    (dividerStep c s).peek b =
      if b = s.params.io.div then s.peek s.params.io.div + BitVec.ofNat 8 ((s.divAcc + c) / 256) else s.peek b := by
  rw [dividerStep_eq, State.setDivAcc_peek]
  split
  · next hb => rw [hb, divTick_iterate_peek]
  · next hb => exact divTick_iterate_peek_ne s _ hb

theorem dividerStep_params_accs (c : Nat) (s : State) :
    (dividerStep c s).params = s.params ∧ (dividerStep c s).divAcc = (s.divAcc + c) % 256 ∧
      (dividerStep c s).timaAcc = s.timaAcc := by
  obtain ⟨-, -, -, -, htima, -, hparams⟩ := divTick_iterate_sameButMem s ((s.divAcc + c) / 256)
  rw [dividerStep_eq]
  exact ⟨hparams, rfl, htima⟩

/-! ### The interval counter -/

/-- R221 in the two spellings. -/
theorem period_eq_periodOf (tac : Byte) : period tac = periodOf tac := by
  unfold period periodOf
  split <;> simp_all

theorem timaTick_peek (s : State) :
    (timaTick s).peek s.params.io.tima = timaNext (s.peek s.params.io.tma) (s.peek s.params.io.tima) := by
  have hlt := (s.peek s.params.io.tima).isLt
  have hmax : 255 < (s.peek s.params.io.tima).toNat + 1 ↔ s.peek s.params.io.tima = 0xFF#8 := by
    rw [← BitVec.toNat_inj, BitVec.toNat_ofNat]
    omega
  rw [timaTick, State.peek_poke_self, timaNext, if_congr hmax rfl rfl, BitVec.ofNat_add, BitVec.ofNat_toNat,
    BitVec.setWidth_eq]

/-- TMA is another byte than TIMA (R31), so every turn reloads one value. -/
theorem timaTick_iterate_peek (h : s.params.io.WF) (k : Nat) :
    (timaTick^[k] s).peek s.params.io.tima = (timaNext (s.peek s.params.io.tma))^[k] (s.peek s.params.io.tima) := by
  obtain ⟨-, -, hne, -⟩ := timer_registers_ne h
  refine iterate_peek timaTick (fun t => t.params = s.params ∧ t.peek s.params.io.tma = s.peek s.params.io.tma)
    (fun t ⟨hp, ht⟩ => ⟨hp, ?_⟩) (fun t ⟨hp, ht⟩ => ?_) ⟨rfl, rfl⟩ k
  · rw [timaTick, State.peek_poke_ne _ _ (hp ▸ hne), ht]
  · rw [← hp, timaTick_peek, hp, ht]

/-- Parts 3 and 4 of R222 change TIMA and `tima_acc`. -/
theorem intervalStep_peek (h : s.params.io.WF) (c : Nat) (b : Word) :
    (intervalStep c s).peek b =
      if b = s.params.io.tima then
        (timaNext (s.peek s.params.io.tma))^[(s.timaAcc + c) / period (s.peek s.params.io.tac)]
          (s.peek s.params.io.tima)
      else s.peek b := by
  rw [intervalStep_eq, State.setTimaAcc_peek]
  split
  · next hb => rw [hb, timaTick_iterate_peek h]
  · next hb => exact timaTick_iterate_peek_ne s _ hb

theorem intervalStep_accs (c : Nat) (s : State) :
    (intervalStep c s).divAcc = s.divAcc ∧
      (intervalStep c s).timaAcc = (s.timaAcc + c) % period (s.peek s.params.io.tac) := by
  obtain ⟨-, -, -, hdiv, -⟩ :=
    timaTick_iterate_sameButMem s ((s.timaAcc + c) / period (s.peek s.params.io.tac))
  rw [intervalStep_eq]
  exact ⟨hdiv, rfl⟩

/-! ### The Timer -/

/-- The increments of TIMA in a step of a positive count (R222, R224). -/
def timaTurns (c : Nat) (s : State) : Nat :=
  if timerEnabled (s.peek s.params.io.tac) then (s.timaAcc + c) / period (s.peek s.params.io.tac) else 0

/-- `tima_acc` after a step of a positive count (R222, R224). -/
def timaAccAfter (c : Nat) (s : State) : Nat :=
  if timerEnabled (s.peek s.params.io.tac) then (s.timaAcc + c) % period (s.peek s.params.io.tac) else s.timaAcc

/-- The divider does not change TAC, so the Timer is on when it was on before (R222, R224, R31). -/
theorem timerStep_eq (h : s.params.io.WF) (hc : 0 < c) :
    timerStep c s =
      if timerEnabled (s.peek s.params.io.tac) then intervalStep c (dividerStep c s) else dividerStep c s := by
  obtain ⟨-, -, -, hne, -⟩ := timer_registers_ne h
  obtain ⟨hparams, -⟩ := dividerStep_params_accs c s
  rw [timerStep_pos hc, timerRun, hparams, dividerStep_peek, if_neg hne]

/-- The bytes a step of a positive count leaves (R222): DIV and TIMA in closed form, every other as before. -/
theorem timerStep_peek (h : s.params.io.WF) (hc : 0 < c) (b : Word) :
    (timerStep c s).peek b =
      if b = s.params.io.div then s.peek s.params.io.div + BitVec.ofNat 8 ((s.divAcc + c) / 256)
      else if b = s.params.io.tima then
        (timaNext (s.peek s.params.io.tma))^[timaTurns c s] (s.peek s.params.io.tima)
      else s.peek b := by
  obtain ⟨hid, hmd, -, hcd, -⟩ := timer_registers_ne h
  obtain ⟨hparams, -, htima⟩ := dividerStep_params_accs c s
  rw [timerStep_eq h hc, timaTurns]
  split
  · rw [intervalStep_peek (hparams ▸ h)]
    simp only [dividerStep_peek, hparams, htima, hid, hmd, hcd, if_false]
    split
    · next hb => rw [hb, if_neg hid]
    · rfl
  · rw [dividerStep_peek]
    split
    · rfl
    · split
      · next hb => rw [hb, Function.iterate_zero, id]
      · rfl

/-- The accumulators a step of a positive count leaves (R222). -/
theorem timerStep_accs (h : s.params.io.WF) (hc : 0 < c) :
    (timerStep c s).divAcc = (s.divAcc + c) % 256 ∧ (timerStep c s).timaAcc = timaAccAfter c s := by
  obtain ⟨-, -, -, hne, -⟩ := timer_registers_ne h
  obtain ⟨hparams, hdiv, htima⟩ := dividerStep_params_accs c s
  obtain ⟨hdiv', htima'⟩ := intervalStep_accs c (dividerStep c s)
  rw [hparams, dividerStep_peek, if_neg hne, htima] at htima'
  rw [timerStep_eq h hc, timaAccAfter]
  split
  · exact ⟨hdiv'.trans hdiv, htima'⟩
  · exact ⟨hdiv, htima⟩

/-- TIMA after a step of a positive count (R222, R223). -/
theorem timerStep_tima (h : s.params.io.WF) (hc : 0 < c) :
    (timerStep c s).peek s.params.io.tima =
      (timaNext (s.peek s.params.io.tma))^[timaTurns c s] (s.peek s.params.io.tima) := by
  obtain ⟨hid, -⟩ := timer_registers_ne h
  rw [timerStep_peek h hc, if_neg hid, if_pos rfl]

/-- A step of the Timer changes the store and its two accumulators alone (R67). -/
theorem timerStep_eq_update (h : s.params.io.WF) (hc : 0 < c) :
    timerStep c s = { s with
      mem := (timerStep c s).mem, divAcc := (s.divAcc + c) % 256, timaAcc := timaAccAfter c s } := by
  obtain ⟨hreg, hpc, hsp, hparams, -⟩ := timerStep_frame c s
  obtain ⟨hdiv, htima⟩ := timerStep_accs h hc
  exact State.ext_fields (fun r => (hreg r).trans (by cases r <;> rfl)) hpc hsp rfl hdiv htima (timerStep_lyAcc c s) hparams

/-- Settles O42: a count of 0 changes nothing by R225 (a); any other, from the closed form of the two loops. -/
theorem timerStepClosedForm : Obligations.TimerStepClosedForm := by
  rintro c s ⟨h, -⟩
  refine ⟨fun hc => hc ▸ timerStep_zero s, fun hc => ⟨?_, ?_, ?_, fun b hd hi => ?_⟩⟩
  · rw [timerStep_peek h hc, if_pos rfl]
  · rw [← period_eq_periodOf]
    exact timerStep_eq_update h hc
  · rw [timerStep_tima h hc, timaTurns, ← period_eq_periodOf, timerEnabled]
    split
    · rfl
    · rfl
  · rw [timerStep_peek h hc, if_neg hd, if_neg hi]

/-- Settles O43: 16 cycles are one period, from any remainder of it. -/
theorem timerUnitProperty : Obligations.TimerUnitProperty := by
  rintro s ⟨h, -⟩ htac hacc
  have hon : timerEnabled 0x05#8 = true := rfl
  have hperiod : period 0x05#8 = 16 := rfl
  have hone : timaTurns 16 s = 1 := by
    rw [timaTurns, htac, if_pos hon, hperiod]
    omega
  obtain ⟨-, htima⟩ := timerStep_accs (c := 16) h (by decide)
  have hpeek := timerStep_tima (c := 16) h (by decide)
  rw [hone, Function.iterate_one] at hpeek
  refine ⟨?_, fun hne => ?_, fun heq => ?_⟩
  · rw [htima, timaAccAfter, htac, if_pos hon, hperiod]
    omega
  · rw [hpeek, timaNext, if_neg hne]
  · rw [hpeek, timaNext, if_pos heq]

/-- Settles O44: each of the turns reloads TMA where it finds 0xFF. -/
theorem timaReloadsPerIncrement : Obligations.TimaReloadsPerIncrement := by
  rintro c s hc ⟨h, -⟩ hon hmax
  have hturns : timaTurns c s = (s.timaAcc + c) / periodOf (s.peek s.params.io.tac) := by
    rw [timaTurns, timerEnabled, if_pos hon, period_eq_periodOf]
  have hreload : timaNext (s.peek s.params.io.tma) 0xFF#8 = s.peek s.params.io.tma := if_pos rfl
  rw [timerStep_tima h hc, hturns, hmax]
  refine ⟨fun hk => ?_, fun hk hne => ?_, fun hk heq => ?_⟩
  · rw [hk, Function.iterate_one, hreload]
  · rw [hk, Function.iterate_succ_apply, Function.iterate_one, hreload, timaNext, if_neg hne]
  · rw [hk, Function.iterate_succ_apply, Function.iterate_one, hreload, timaNext, if_pos heq, heq]

/-! ### Steps in sequence -/

theorem timerStep_mem_wf (c : Nat) (hs : s.mem.wf) : (timerStep c s).mem.wf := by
  refine timerStep_keeps (P := fun u => u.mem.wf) (fun u hu => ?_) (fun u hu => ?_) hs
  · rw [dividerStep_eq]
    exact iterate_keeps (P := fun u => u.mem.wf) (fun _ h => State.poke_wf h _ _) hu _
  · rw [intervalStep_eq]
    exact iterate_keeps (P := fun u => u.mem.wf) (fun _ h => State.poke_wf h _ _) hu _

/-- What the next step of the Timer reads is as before but DIV, TIMA and the two accumulators (R222). -/
theorem timerStep_reads (h : s.params.io.WF) (c : Nat) :
    (timerStep c s).peek s.params.io.tac = s.peek s.params.io.tac ∧
      (timerStep c s).peek s.params.io.tma = s.peek s.params.io.tma := by
  obtain ⟨-, hmd, hmi, hcd, hci⟩ := timer_registers_ne h
  have hframe := timerStep_frame c s
  exact ⟨hframe.peek _ (by simp [timerBytes, hcd, hci]), hframe.peek _ (by simp [timerBytes, hmd, hmi])⟩

/-- Increments of TIMA over two steps (R222). -/
theorem timaTurns_add (h : s.params.io.WF) (hc : 0 < c) (d : Nat) :
    timaTurns d (timerStep c s) + timaTurns c s = timaTurns (c + d) s := by
  obtain ⟨htac, -⟩ := timerStep_reads h c
  obtain ⟨-, htima⟩ := timerStep_accs h hc
  rw [timaTurns, timaTurns, timaTurns, (timerStep_frame c s).params, htac, htima, timaAccAfter]
  split
  · rw [Nat.add_comm, div_add_mod_add_div (period_pos _), Nat.add_assoc]
  · rfl

theorem timaAccAfter_add (h : s.params.io.WF) (hc : 0 < c) (d : Nat) :
    timaAccAfter d (timerStep c s) = timaAccAfter (c + d) s := by
  obtain ⟨htac, -⟩ := timerStep_reads h c
  obtain ⟨-, htima⟩ := timerStep_accs h hc
  rw [timaAccAfter, timaAccAfter, (timerStep_frame c s).params, htac, htima, timaAccAfter]
  split
  · rw [Nat.mod_add_mod, Nat.add_assoc]
  · rfl

/-- The bytes after two steps are those after one of the sum (R222). -/
theorem timerStep_timerStep_peek (h : s.params.io.WF) (hc : 0 < c) (hd : 0 < d) (b : Word) :
    (timerStep d (timerStep c s)).peek b = (timerStep (c + d) s).peek b := by
  have hparams := (timerStep_frame c s).params
  obtain ⟨-, htma⟩ := timerStep_reads h c
  obtain ⟨hdiv, -⟩ := timerStep_accs h hc
  rw [timerStep_peek (hparams ▸ h) hd, timerStep_peek h (Nat.add_pos_left hc d), hparams]
  split
  · rw [timerStep_peek h hc, if_pos rfl, hdiv, BitVec.add_assoc, ← BitVec.ofNat_add,
      div_add_mod_add_div (by decide), Nat.add_assoc]
  · next hbd =>
    split
    · rw [timerStep_tima h hc, htma, ← Function.iterate_add_apply, timaTurns_add h hc]
    · next hbi => rw [timerStep_peek h hc, if_neg hbd, if_neg hbi]

/-- Settles O45: a step of 0 changes nothing (R225 (a)); two others leave the same bytes and remainders as their sum. -/
theorem timerStepsAdd : Obligations.TimerStepsAdd := by
  rintro c d s ⟨h, -⟩ hs
  rcases Nat.eq_zero_or_pos c with rfl | hc
  · rw [timerStep_zero, Nat.zero_add]
  rcases Nat.eq_zero_or_pos d with rfl | hd
  · rw [timerStep_zero, Nat.add_zero]
  have hparams := (timerStep_frame c s).params
  have hmem := mem_eq_of_peek (timerStep_mem_wf (c + d) hs) (timerStep_mem_wf d (timerStep_mem_wf c hs))
    (timerStep_timerStep_peek h hc hd)
  rw [timerStep_eq_update (hparams ▸ h) hd, timerStep_eq_update h (Nat.add_pos_left hc d), hmem, timaAccAfter_add h hc,
    timerStep_eq_update h hc, Nat.mod_add_mod, Nat.add_assoc]

end Sys2Proof.Machine
end

section
/-! Family 60_exceptions.md, the Scanline Clock (R230 to R235): LY and `ly_acc` in closed form and over any split of the
cycles, and its order with the Timer (R241). -/

namespace Sys2Proof.Machine

open Sys2Proof.Claims

variable {c d : Nat} {s : State}

/-! ### One tick -/

/-- One LY increment, modulo 154 (R232). -/
def lyNext (ly : Byte) : Byte := BitVec.ofNat 8 ((ly.toNat + 1) % 154)

theorem lyTick_peek (s : State) : (lyTick s).peek s.params.io.ly = lyNext (s.peek s.params.io.ly) :=
  State.peek_poke_self s _ _

theorem lyTick_iterate_peek (s : State) (k : Nat) :
    (lyTick^[k] s).peek s.params.io.ly = lyNext^[k] (s.peek s.params.io.ly) :=
  iterate_peek lyTick (fun t => t.params = s.params) (fun _ h => h) (fun t h => h ▸ lyTick_peek t) rfl k

/-- From the range of R35, `k` increments are a sum modulo 154. -/
theorem lyNext_iterate_toNat {ly : Byte} (h : ly.toNat ≤ 153) (k : Nat) :
    (lyNext^[k] ly).toNat = (ly.toNat + k) % 154 := by
  induction k with
  | zero => exact (Nat.mod_eq_of_lt (Nat.lt_succ_of_le h)).symm
  | succ k ih =>
    rw [Function.iterate_succ_apply', lyNext, BitVec.toNat_ofNat, ih]
    omega

/-- LY after a tick (R232). -/
def lyAfter (c : Nat) (s : State) : Byte :=
  if lcdOn s then lyNext^[(s.lyAcc + c) / 456] (s.peek s.params.io.ly) else 0#8

/-- `ly_acc` after a tick (R232). -/
def lyAccAfter (c : Nat) (s : State) : Nat := if lcdOn s then (s.lyAcc + c) % 456 else 0

theorem scanlineTick_ly (c : Nat) (s : State) : (scanlineTick c s).peek s.params.io.ly = lyAfter c s := by
  rw [lyAfter]
  split
  · next hon => rw [scanlineTick_on hon, State.setLyAcc_peek, lyTick_iterate_peek]
  · next hoff => rw [scanlineTick_off (Bool.eq_false_iff.mpr hoff), State.setLyAcc_peek, State.peek_poke_self]

theorem scanlineTick_lyAcc (c : Nat) (s : State) : (scanlineTick c s).lyAcc = lyAccAfter c s := by
  rw [lyAccAfter]
  split
  · next hon => rw [scanlineTick_on hon, State.setLyAcc_lyAcc]
  · next hoff => rw [scanlineTick_off (Bool.eq_false_iff.mpr hoff), State.setLyAcc_lyAcc]

theorem scanlineTick_peek_ne (c : Nat) {b : Word} (hb : b ≠ s.params.io.ly) : (scanlineTick c s).peek b = s.peek b :=
  (scanlineTick_frame c s).peek b (List.mem_singleton.not.mpr hb)

/-- The bytes a tick leaves (R67, R232): LY, and every other as before. -/
theorem scanlineTick_peek (c : Nat) (s : State) (b : Word) :
    (scanlineTick c s).peek b = if b = s.params.io.ly then lyAfter c s else s.peek b := by
  split
  · next hb => rw [hb, scanlineTick_ly]
  · next hb => exact scanlineTick_peek_ne c hb

/-- A tick changes the store and `ly_acc` alone (R67). -/
theorem scanlineTick_eq_update (c : Nat) (s : State) :
    scanlineTick c s = { s with mem := (scanlineTick c s).mem, lyAcc := lyAccAfter c s } := by
  obtain ⟨hreg, hpc, hsp, hparams, -⟩ := scanlineTick_frame c s
  obtain ⟨hdiv, htima⟩ := scanlineTick_timerAccs c s
  exact State.ext_fields (fun r => (hreg r).trans (by cases r <;> rfl)) hpc hsp rfl hdiv htima (scanlineTick_lyAcc c s)
    hparams

/-- Settles O46: the increments of LY with the LCD on, 0 with it off, and the frame of the tick. -/
theorem scanlineTickClosedForm : Obligations.ScanlineTickClosedForm := by
  intro c s hly
  refine ⟨fun (hon : lcdOn s = true) => ⟨?_, ?_⟩, fun (hoff : lcdOn s = false) => ⟨?_, ?_⟩,
    fun b hb => scanlineTick_peek_ne c hb⟩
  · rw [scanlineTick_ly, lyAfter, if_pos hon, lyNext_iterate_toNat hly]
  · have h := scanlineTick_eq_update c s
    rwa [lyAccAfter, if_pos hon] at h
  · rw [scanlineTick_ly, lyAfter, if_neg (Bool.eq_false_iff.mp hoff)]
  · have h := scanlineTick_eq_update c s
    rwa [lyAccAfter, if_neg (Bool.eq_false_iff.mp hoff)] at h

/-! ### Ticks in sequence -/

/-- LY increments do not use `ly_acc`. -/
theorem lyTick_iterate_setLyAcc (s : State) (n k : Nat) : lyTick^[k] (s.setLyAcc n) = (lyTick^[k] s).setLyAcc n :=
  Function.Commute.iterate_left (f := lyTick) (g := (State.setLyAcc · n)) (fun _ => rfl) k s

/-- The registers of the Timer are not those of the Scanline Clock (R31). -/
theorem scanline_registers_ne {io : IoAddr} (h : io.WF) :
    io.div ≠ io.ly ∧ io.tima ≠ io.ly ∧ io.tma ≠ io.ly ∧ io.tac ≠ io.ly ∧ io.ly ∉ timerBytes io ∧
      io.lcdc ∉ timerBytes io ∧ io.lcdc ≠ io.ly := by
  have hd := h.distinct
  simp only [List.nodup_cons, timerBytes, List.mem_cons, not_or] at hd ⊢
  tauto

/-- LCDC is not LY (R31), so a tick leaves the LCD on or off. -/
theorem lcdOn_scanlineTick (h : s.params.io.WF) (c : Nat) : lcdOn (scanlineTick c s) = lcdOn s := by
  obtain ⟨-, -, -, -, -, -, hne⟩ := scanline_registers_ne h
  rw [lcdOn, lcdOn, (scanlineTick_frame c s).params, scanlineTick_peek_ne c hne]

/-- With the LCD on, two ticks are one of the sum (R232). -/
theorem scanlineTick_scanlineTick (h : s.params.io.WF) (hon : lcdOn s = true) (c d : Nat) :
    scanlineTick d (scanlineTick c s) = scanlineTick (c + d) s := by
  have hon' := (lcdOn_scanlineTick h c).trans hon
  rw [scanlineTick_on hon', scanlineTick_on hon, State.setLyAcc_lyAcc, lyTick_iterate_setLyAcc,
    ← Function.iterate_add_apply, Nat.add_comm, div_add_mod_add_div (by decide), scanlineTick_on hon, Nat.mod_add_mod,
    Nat.add_assoc]
  rfl

/-- With the LCD on and `ly_acc` in its range (R38), ticks are one of their sum (R232, R235 (a)). -/
theorem scanlineTicks_eq_sum (ticks : List Nat) (h : s.params.io.WF) (hon : lcdOn s = true) (hacc : s.lyAcc < 456) :
    ticks.foldl (fun t c => scanlineTick c t) s = scanlineTick ticks.sum s := by
  induction ticks generalizing s with
  | nil => exact (scanlineTick_zero hon hacc).symm
  | cons c rest ih =>
    have hparams := (scanlineTick_frame c s).params
    have hacc' : (scanlineTick c s).lyAcc < 456 := by
      rw [scanlineTick_lyAcc, lyAccAfter, if_pos hon]
      exact Nat.mod_lt _ (by decide)
    rw [List.foldl_cons, ih (hparams ▸ h) ((lcdOn_scanlineTick h c).trans hon) hacc',
      scanlineTick_scanlineTick h hon, List.sum_cons]

/-- Settles O47: the ticks are one of their sum, whose closed form starts at 0. -/
theorem scanlineTicksTotal : Obligations.ScanlineTicksTotal := by
  rintro ticks s ⟨h, -⟩ (hon : lcdOn s = true) hly hacc
  rw [scanlineTicks_eq_sum ticks h hon (by omega), scanlineTick_lyAcc, lyAccAfter, if_pos hon, scanlineTick_ly, lyAfter,
    if_pos hon, hly, hacc, lyNext_iterate_toNat (by decide), Nat.zero_add]
  exact ⟨congrArg (· % 154) (Nat.zero_add _), rfl⟩

/-! ### The two peripherals in either order -/

theorem scanlineTick_mem_wf (c : Nat) (hs : s.mem.wf) : (scanlineTick c s).mem.wf := by
  cases hon : lcdOn s
  · rw [scanlineTick_off hon, State.setLyAcc_mem]
    exact State.poke_wf hs _ _
  · rw [scanlineTick_on hon, State.setLyAcc_mem]
    exact iterate_keeps (P := fun u => u.mem.wf) (fun _ h => State.poke_wf h _ _) hs _

/-- What a tick reads is as before after a step of the Timer (R31, R67). -/
theorem lyAfter_timerStep (h : s.params.io.WF) (c d : Nat) :
    lyAfter d (timerStep c s) = lyAfter d s ∧ lyAccAfter d (timerStep c s) = lyAccAfter d s := by
  obtain ⟨-, -, -, -, hly, hlcdc, -⟩ := scanline_registers_ne h
  have hframe := timerStep_frame c s
  have hon : lcdOn (timerStep c s) = lcdOn s := by rw [lcdOn, lcdOn, hframe.params, hframe.peek _ hlcdc]
  constructor
  · rw [lyAfter, lyAfter, hon, timerStep_lyAcc, hframe.params, hframe.peek _ hly]
  · rw [lyAccAfter, lyAccAfter, hon, timerStep_lyAcc]

/-- What a step of the Timer reads is as before after a tick (R31, R67). -/
theorem timaTurns_scanlineTick (h : s.params.io.WF) (c d : Nat) :
    timaTurns c (scanlineTick d s) = timaTurns c s ∧ timaAccAfter c (scanlineTick d s) = timaAccAfter c s := by
  obtain ⟨-, -, -, htac, -⟩ := scanline_registers_ne h
  obtain ⟨-, htima⟩ := scanlineTick_timerAccs d s
  have hparams := (scanlineTick_frame d s).params
  constructor
  · rw [timaTurns, timaTurns, hparams, scanlineTick_peek_ne d htac, htima]
  · rw [timaAccAfter, timaAccAfter, hparams, scanlineTick_peek_ne d htac, htima]

/-- In either order the bytes left are those of DIV, TIMA and LY in closed form. -/
theorem scanlineTick_timerStep_peek (h : s.params.io.WF) (hc : 0 < c) (d : Nat) (b : Word) :
    (scanlineTick d (timerStep c s)).peek b = (timerStep c (scanlineTick d s)).peek b := by
  obtain ⟨hdl, hil, hml, -⟩ := scanline_registers_ne h
  obtain ⟨hdiv, -⟩ := scanlineTick_timerAccs d s
  obtain ⟨hturns, -⟩ := timaTurns_scanlineTick h c d
  obtain ⟨hly, -⟩ := lyAfter_timerStep h c d
  have hparams := (scanlineTick_frame d s).params
  rw [scanlineTick_peek, timerStep_peek h hc, timerStep_peek (hparams ▸ h) hc, (timerStep_frame c s).params, hparams,
    hly, hdiv, hturns, scanlineTick_peek_ne d hdl, scanlineTick_peek_ne d hil, scanlineTick_peek_ne d hml,
    scanlineTick_peek]
  by_cases hb : b = s.params.io.ly
  · rw [if_pos hb, if_neg (hb ▸ hdl.symm), if_neg (hb ▸ hil.symm), if_pos hb]
  · rw [if_neg hb, if_neg hb]

/-- Settles O48: in either order the bytes and the accumulators are the same, and neither touches anything else. -/
theorem peripheralsCommute : Obligations.PeripheralsCommute := by
  rintro c d s ⟨h, -⟩ hs
  rcases Nat.eq_zero_or_pos c with rfl | hc
  · rw [timerStep_zero, timerStep_zero]
  have hparams := (scanlineTick_frame d s).params
  have hmem := mem_eq_of_peek (scanlineTick_mem_wf d (timerStep_mem_wf c hs))
    (timerStep_mem_wf c (scanlineTick_mem_wf d hs)) fun b => (scanlineTick_timerStep_peek h hc d b).symm
  obtain ⟨-, htima⟩ := timaTurns_scanlineTick h c d
  obtain ⟨-, hlyAcc⟩ := lyAfter_timerStep h c d
  rw [timerStep_eq_update (hparams ▸ h) hc, scanlineTick_eq_update d (timerStep c s), hmem, htima, hlyAcc,
    timerStep_eq_update h hc, scanlineTick_eq_update d s]

end Sys2Proof.Machine
end

section
/-! Family 70_reset_and_hazards.md, reset (R260): when it answers, and the block it builds, byte by byte. -/

namespace Sys2Proof.Machine

variable {args : ResetArgs}

/-! ### The images -/

theorem ResetArgs.sizesOk_iff (args : ResetArgs) : args.sizesOk = true ↔
    args.rom.length = 32768 ∧ ∀ bytes, args.eram = some bytes → bytes.length = 8192 := by
  rw [ResetArgs.sizesOk]
  cases args.eram <;> simp

/-- An absent external RAM image counts as empty. -/
theorem ResetArgs.eram_length_le (hs : args.sizesOk = true) : (args.eram.getD []).length ≤ 8192 := by
  obtain ⟨-, heram⟩ := args.sizesOk_iff.mp hs
  cases he : args.eram with
  | none => exact Nat.zero_le _
  | some bytes => exact (heram bytes he).le

theorem imageStore_read_rom (hs : args.sizesOk = true) {k : Nat} (hk : k < 32768) :
    Memory.read (imageStore args) k = args.rom.getD k 0#8 := by
  obtain ⟨hrom, -⟩ := args.sizesOk_iff.mp hs
  rw [imageStore_read, if_pos (hrom ▸ hk)]

theorem imageStore_read_eram (hs : args.sizesOk = true) {bytes : List Byte} (he : args.eram = some bytes) {k : Nat}
    (hk : k < 8192) : Memory.read (imageStore args) (0xA000 + k) = bytes.getD k 0#8 := by
  obtain ⟨hrom, heram⟩ := args.sizesOk_iff.mp hs
  have hlen := heram bytes he
  rw [imageStore_read, he, Option.getD_some, if_neg (by omega), if_pos (by omega), Nat.add_sub_cancel_left]

/-- An address INIT_RAM fills and no image covers (R42). -/
theorem imageStore_read_init (hs : args.sizesOk = true) {a : Nat} (ha : initAddress a = true)
    (he : args.eram ≠ none → ¬ (0xA000 ≤ a ∧ a ≤ 0xBFFF)) :
    Memory.read (imageStore args) a = args.initRam.read a := by
  obtain ⟨hrom, heram⟩ := args.sizesOk_iff.mp hs
  obtain ⟨hlow, -⟩ := (initAddress_iff a).mp ha
  have hout : ¬ (0xA000 ≤ a ∧ a < 0xA000 + (args.eram.getD []).length) := by
    cases h : args.eram with
    | none => simp
    | some bytes =>
      have hlen := heram bytes h
      have hne := he (by simp [h])
      rw [Option.getD_some]
      omega
  rw [imageStore_read, if_neg (by omega), if_neg hout, if_pos ha]

/-- The peripheral registers (R31) are among the addresses INIT_RAM alone fills. -/
theorem imageStore_read_io (hs : args.sizesOk = true) (hp : args.params.WF) {a : Word} (ha : a ∈ args.params.io.all) :
    Memory.read (imageStore args) a.toNat = args.initRam.read a.toNat := by
  obtain ⟨hlow, hhigh⟩ := hp.1.range ha
  exact imageStore_read_init hs ((initAddress_iff _).mpr (by omega)) (fun _ => by omega)

/-! ### The block -/

/-- The block with its store as INIT_RAM and the images leave it, the TAC byte not yet masked (R260 (1) to (3)). -/
def ResetArgs.unmasked (args : ResetArgs) : State :=
  { a := args.regs.a, b := args.regs.b, c := args.regs.c, d := args.regs.d, e := args.regs.e, h := args.regs.h,
    l := args.regs.l, f := args.regs.f, pc := args.regs.pc, sp := args.regs.sp, mem := imageStore args, divAcc := 0,
    timaAcc := 0, lyAcc := 0, params := args.params }

/-- The block reset answers: the TAC byte is masked (R41). `construct_eq` ties it to `construct`. -/
def ResetArgs.block (args : ResetArgs) : State :=
  args.unmasked.poke args.params.io.tac (args.unmasked.peek args.params.io.tac &&& 0x07#8)

theorem construct_eq (args : ResetArgs) : construct args =
    if args.sizesOk = false then .refused .imageSize
    else if ¬ (args.params.WF ∧ args.regs.WF ∧ (args.unmasked.peek args.params.io.ly).toNat ≤ 153) then
      .refused .badParameter
    else .next args.block := rfl

theorem construct_refused_of_size (h : ¬ args.sizesOk = true) : construct args = .refused .imageSize := by
  rw [construct_eq, if_pos (Bool.eq_false_iff.mpr h)]

/-- What reset accepts (R74, R31, R275, R40, R41). -/
structure ResetArgs.Accepted (args : ResetArgs) : Prop where
  sizes : args.sizesOk = true
  params : args.params.WF
  regs : args.regs.WF
  ly : (args.initRam.read args.params.io.ly.toNat).toNat ≤ 153

/-- LY is where INIT_RAM put it (R41). -/
theorem ResetArgs.unmasked_ly (hs : args.sizesOk = true) (hp : args.params.WF) :
    args.unmasked.peek args.params.io.ly = args.initRam.read args.params.io.ly.toNat :=
  imageStore_read_io hs hp (by simp [IoAddr.all])

/-- Reset answers exactly when it accepts its arguments, and then the block. -/
theorem construct_eq_next_iff {s : State} : construct args = .next s ↔ args.Accepted ∧ s = args.block := by
  rw [construct_eq]
  constructor
  · intro h
    split at h
    · cases h
    · next hs =>
      have hs' := eq_true_of_ne_false hs
      split at h
      · cases h
      · next hc =>
        obtain ⟨hp, hr, hl⟩ := not_not.mp hc
        cases h
        exact ⟨⟨hs', hp, hr, ResetArgs.unmasked_ly hs' hp ▸ hl⟩, rfl⟩
  · rintro ⟨⟨hs, hp, hr, hl⟩, rfl⟩
    rw [← ResetArgs.unmasked_ly hs hp] at hl
    rw [if_neg (ne_false_of_eq_true hs), if_neg (not_not.mpr ⟨hp, hr, hl⟩)]

/-- Every byte but TAC is as INIT_RAM and the images leave it. -/
theorem ResetArgs.block_peek_of_ne {a : Word} (h : a ≠ args.params.io.tac) :
    args.block.peek a = Memory.read (imageStore args) a.toNat :=
  State.peek_poke_ne _ _ h

theorem ResetArgs.block_tac (hs : args.sizesOk = true) (hp : args.params.WF) : args.block.peek args.params.io.tac
    = args.initRam.read args.params.io.tac.toNat &&& 0x07#8 := by
  rw [← imageStore_read_io hs hp (a := args.params.io.tac) (by simp [IoAddr.all])]
  exact State.peek_poke_self _ _ _

/-- Below the page of the peripheral registers (R31), where TAC is. -/
theorem ResetArgs.block_peek_ofNat (hp : args.params.WF) {k : Nat} (hk : k < 0xFF00) :
    args.block.peek (BitVec.ofNat 16 k) = Memory.read (imageStore args) k := by
  have hnat : (BitVec.ofNat 16 k).toNat = k := (BitVec.toNat_ofNat _ _).trans (Nat.mod_eq_of_lt (by omega))
  have hne : BitVec.ofNat 16 k ≠ args.params.io.tac := by
    intro e
    obtain ⟨hlow, -⟩ := hp.1.range (a := args.params.io.tac) (by simp [IoAddr.all])
    rw [← e, hnat] at hlow
    omega
  rw [ResetArgs.block_peek_of_ne hne, hnat]

theorem ResetArgs.block_inv (h : args.Accepted) : Inv args.block := by
  obtain ⟨hs, hp, hr, hl⟩ := h
  obtain ⟨hrom, -⟩ := args.sizesOk_iff.mp hs
  obtain ⟨hwf, hdead⟩ := imageStore_clean hrom (ResetArgs.eram_length_le hs)
  obtain ⟨hlow, -⟩ := hp.1.range (a := args.params.io.tac) (by simp [IoAddr.all])
  obtain ⟨-, -, -, -, htl⟩ := io_ne_tac_ly hp.1
  have htac : args.block.peek args.params.io.tac &&& 0xF8#8 = 0#8 := by
    rw [ResetArgs.block_tac hs hp, BitVec.and_assoc]
    exact BitVec.and_zero
  have hly : (args.block.peek args.params.io.ly).toNat ≤ 153 := by
    rw [ResetArgs.block_peek_of_ne htl.symm, imageStore_read_io hs hp (by simp [IoAddr.all])]
    exact hl
  exact {
    flagsLow := hr
    tacHigh := htac
    lyRange := hly
    divRange := Nat.zero_le _
    lyAccRange := Nat.zero_le _
    params := hp
    memWf := State.poke_wf (s := args.unmasked) hwf _ _
    noDead := State.poke_noDead (s := args.unmasked) hdead _ (by omega) (by omega) }

/-- Settles O51: the sizes, the parameters, RESET and the LY byte are the tests of reset; each byte of the block is read
off the images, and its store is clean. -/
theorem resetBuildsTheBlock : Obligations.ResetBuildsTheBlock := by
  intro args
  refine ⟨fun h => construct_refused_of_size fun hs => h (args.sizesOk_iff.mp hs).1,
    fun bytes he h => construct_refused_of_size fun hs => h ((args.sizesOk_iff.mp hs).2 bytes he), ?_, ?_⟩
  · constructor
    · rintro ⟨s, h⟩
      obtain ⟨⟨hs, hp, hr, hl⟩, -⟩ := construct_eq_next_iff.mp h
      obtain ⟨hrom, heram⟩ := args.sizesOk_iff.mp hs
      exact ⟨hrom, heram, hp, hr, hl⟩
    · rintro ⟨hrom, heram, hp, hr, hl⟩
      exact ⟨args.block, construct_eq_next_iff.mpr ⟨⟨args.sizesOk_iff.mpr ⟨hrom, heram⟩, hp, hr, hl⟩, rfl⟩⟩
  · intro s h
    obtain ⟨hacc, rfl⟩ := construct_eq_next_iff.mp h
    have hs := hacc.sizes
    have hp := hacc.params
    refine ⟨fun k hk => ?_, fun bytes k he hk => ?_, fun a hlow heram hecho hunus htac => ?_,
      ResetArgs.block_tac hs hp, rfl, rfl, rfl, rfl, rfl, rfl, rfl, rfl, rfl, rfl, rfl, rfl, rfl, rfl,
      ResetArgs.block_inv hacc⟩
    · rw [ResetArgs.block_peek_ofNat hp (by omega), imageStore_read_rom hs hk]
    · rw [ResetArgs.block_peek_ofNat hp (by omega), imageStore_read_eram hs he hk]
    · have hinit := (initAddress_iff _).mpr ⟨hlow, Nat.le_of_lt_succ a.isLt, hecho, hunus⟩
      rw [ResetArgs.block_peek_of_ne htac, imageStore_read_init hs hinit heram]

/-! ### The default construction -/

/-- Reset of zero images and a zero INIT_RAM leaves the store with nothing listed. -/
theorem ResetArgs.block_mem_eq_nil (h : args.Accepted) (hrom : ∀ k, args.rom.getD k 0#8 = 0#8)
    (heram : args.eram = none) (hinit : args.initRam = []) : args.block.mem = [] := by
  have hzero : ∀ a, Memory.read (imageStore args) a = 0#8 := by
    intro a
    rw [imageStore_read, hrom, heram, hinit]
    repeat' split
    all_goals rfl
  refine Memory.ext_of_wf (ResetArgs.block_inv h).memWf ⟨List.Pairwise.nil, List.forall_mem_nil _⟩ fun a => ?_
  have htac : args.unmasked.peek args.params.io.tac = 0#8 := hzero _
  rw [ResetArgs.block, htac, State.poke_mem, Memory.read_write]
  split
  · rfl
  · exact hzero a

/-- The other fields of the block are copies of RESET and of the parameters, or 0. -/
theorem ResetArgs.block_eq_reset (h : args.Accepted) (hrom : ∀ k, args.rom.getD k 0#8 = 0#8)
    (heram : args.eram = none) (hinit : args.initRam = []) (hregs : args.regs = resetZero)
    (hparams : args.params = defaultParams) : args.block = State.reset := by
  have hmem := ResetArgs.block_mem_eq_nil h hrom heram hinit
  obtain ⟨rom, eram, initRam, regs, params⟩ := args
  obtain rfl : regs = resetZero := hregs
  obtain rfl : params = defaultParams := hparams
  exact State.ext_fields (fun r => by cases r <;> rfl) rfl rfl hmem rfl rfl rfl rfl

/-- Settles O52: reset accepts the default arguments, and every byte of their images and of INIT_RAM is 0. -/
theorem resetIsTheDefaultConstruction : Obligations.ResetIsTheDefaultConstruction := by
  have hacc : ResetArgs.Accepted
      { rom := List.replicate 32768 0#8, eram := none, initRam := [], regs := resetZero, params := defaultParams } :=
    ⟨(ResetArgs.sizesOk_iff _).mpr ⟨List.length_replicate, nofun⟩, defaultParams_wf, by decide, by decide⟩
  have hrom : ∀ k, (List.replicate 32768 0#8).getD k 0#8 = 0#8 := fun k =>
    List.getD_eq_getElem?_getD.trans (List.getElem?_getD_replicate_default_eq _ _ _)
  exact construct_eq_next_iff.mpr ⟨hacc, (ResetArgs.block_eq_reset hacc hrom rfl rfl rfl rfl).symm⟩

end Sys2Proof.Machine
end

section
/-! Family 70_reset_and_hazards.md, the costs of R275 and the instructions: with another cost table the bus, the stack and
every instruction do the same to the rest of the state. -/

namespace Sys2Proof.Machine

variable {s t : State}

/-- The state with another CYCLE_COST (R275). -/
def State.withCost (s : State) (cost : CycleCost) : State := { s with params := { s.params with cost := cost } }

theorem busWrite_withCost {addr : Word} {v : Byte} (hw : busWrite addr v s = .next t) (cost : CycleCost) :
    busWrite addr v (s.withCost cost) = .next (t.withCost cost) := by
  rw [busWrite_eq]
  rcases busWrite_next hw with ⟨hu, rfl⟩ | ⟨hu, hge, hstore⟩
  · exact if_pos hu
  · rw [if_neg (Bool.eq_false_iff.mp hu), if_pos hge]
    rcases hstore with ⟨hd, rfl⟩ | ⟨hd, ht, rfl⟩ | ⟨hd, ht, hl, rfl⟩
    · exact if_pos hd
    · exact (if_neg hd).trans (if_pos ht)
    · exact (if_neg hd).trans ((if_neg ht).trans (if_neg hl))

theorem push16_withCost {v : Word} (hp : push16 v s = .next t) (cost : CycleCost) :
    push16 v (s.withCost cost) = .next (t.withCost cost) := by
  obtain ⟨u, h1, h2⟩ := andThen_eq_next.mp hp
  exact andThen_eq_next.mpr ⟨u.withCost cost, busWrite_withCost h1 cost, busWrite_withCost h2 cost⟩

/-- Settles O59: LDH (n),A and CALL do what their bus writes do, which read IO_ADDR alone of the parameters; no other
instruction reads CYCLE_COST. -/
theorem effectsIgnoreCycleCost : Obligations.EffectsIgnoreCycleCost := by
  intro i s t cost hx
  cases i
  case ldhStore n =>
    obtain ⟨u, hw, hu⟩ := andThen_eq_next.mp hx
    cases hu
    exact andThen_eq_next.mpr ⟨u.withCost cost, busWrite_withCost hw cost, rfl⟩
  case call nn =>
    obtain ⟨u, hp, hu⟩ := andThen_eq_next.mp hx
    cases hu
    exact andThen_eq_next.mpr ⟨u.withCost cost, push16_withCost hp cost, rfl⟩
  all_goals
    cases hx
    rfl

end Sys2Proof.Machine
end

section
/-! Family 10_state.md, section 7: the values of the reset state (R40 to R43; log 1, 2, 3). -/

namespace Sys2Proof.Machine

/-- RESET_ZERO gives every 8-bit register 0x00 (R40, log 1). -/
@[simp] theorem reset_reg8 (r : Reg8) : State.reset.reg8 r = 0#8 := by
  cases r <;> rfl

/-- Nothing is listed in the reset store, and an unlisted byte reads as 0x00 (R42, log 2 and 3). -/
@[simp] theorem reset_peek (a : Word) : State.reset.peek a = 0#8 := rfl

/-- Settles O50: the accumulators, PC and SP as reset sets them, the registers of RESET_ZERO and the bytes of an empty
store. -/
theorem resetTakesTheDefaults : Obligations.ResetTakesTheDefaults :=
  ⟨rfl, rfl, rfl, rfl, rfl, reset_reg8, reset_peek⟩

end Sys2Proof.Machine
end
